-- ==== Sys2Proof/Word.lean ====
section
/-! DEFINITION. The word types of the engine: bytes, configuration words, the keys' widths and the six byte
positions. All values are unsigned, bit 0 is the least significant (00_scope.md R9). -/

namespace Sys2Proof

/-- An 8-bit value: `DATA`, `OUT`, an identifier byte, a table column. -/
abbrev Byte := BitVec 8

/-- Format C, the 11-bit configuration word, the layout of `CTL` (30_encoding.md R66). -/
abbrev CtlWord := BitVec 11

/-- Format R, the 5-bit render key `RK` (30_encoding.md R61). -/
abbrev RenderKey := BitVec 5

/-- Format Q, the 4-bit sequencer key `QK` (30_encoding.md R62). -/
abbrev SeqKey := BitVec 4

/-- Format S, the 8-bit step word `SW` (30_encoding.md R64). -/
abbrev StepWord := BitVec 8

/-- Format EV, the 4-bit event vector `EVT` (30_encoding.md R65). -/
abbrev EventVector := BitVec 4

/-- The byte position `BIDX`: the six legal values of a 3-bit register (10_state.md R17). The codes 6 and 7 have no
meaning and a model makes them unrepresentable (30_encoding.md R70, 93_implementation_defined.md U1; log 5). -/
inductive BytePos
  | b0  -- the identification byte, then the idle pause
  | b1  -- identifier byte 0
  | b2  -- identifier byte 1
  | b3  -- identifier byte 2
  | b4  -- identifier byte 3
  | b5  -- restart pending
deriving DecidableEq, Repr

end Sys2Proof
end

