-- ==== Sys2Proof/Syntax.lean ====
section
/-! DEFINITION. The operations of the engine: one constructor per row of spec/opcode_table.json (30_encoding.md R68,
R69, R65). An operand is a field of the row's encoding that the row does not fix and that belongs to the operation
itself, so that no bit of a key is dropped (DESIGN CHOICE, log 11). -/

namespace Sys2Proof

/-- The operations, in the order of spec/opcode_table.json. -/
inductive Instr
  -- format EV
  | reset                    -- RESET,   1xxx
  | divclk                   -- DIVCLK,  0xxx
  | tinc                     -- TINC,    0xx1
  | step                     -- STEP,    0x1x
  | cfgw (v : CtlWord)       -- CFGW v,  01xx with the word on cfg_wdata
  -- format R
  | start (ident : Bool)     -- START,   x0000
  | dbit0                    -- DBIT0,   00001
  | dbit1                    -- DBIT1,   00010
  | dbit2                    -- DBIT2,   00011
  | dbit3                    -- DBIT3,   00100
  | dbit4                    -- DBIT4,   00101
  | dbit5                    -- DBIT5,   00110
  | dbit6                    -- DBIT6,   00111
  | dbit7                    -- DBIT7,   01000
  | mux0                     -- MUX0,    10001
  | mux1                     -- MUX1,    10010
  | mux2                     -- MUX2,    10011
  | mux3                     -- MUX3,    10100
  | mux4                     -- MUX4,    10101
  | mux5                     -- MUX5,    10110
  | mux6                     -- MUX6,    10111
  | mux7                     -- MUX7,    11000
  | stop (ident : Bool)      -- STOP,    x1001
  -- format Q
  | holdLow (pos : BitVec 2) -- HOLD,    0xx0, BIDX 0 to 3
  | holdHigh (five : Bool)   -- HOLD,    10x0, BIDX 4 (false) or 5 (true)
  | adv4                     -- ADV4,    1011
  | adv3                     -- ADV3,    1001
  | adv2                     -- ADV2,    0111
  | adv1                     -- ADV1,    0101
  | adv0                     -- ADV0,    0011
  | restart                  -- RESTART, 0001
deriving DecidableEq, Repr

/-- A select key with the wires it stands on: the three formats number their bits alike, so the same bits select
different operations on different wires (30_encoding.md R60). -/
inductive Key
  /-- format EV, with the word on `cfg_wdata` -/
  | event (evt : EventVector) (wdata : CtlWord)
  /-- format R -/
  | render (rk : RenderKey)
  /-- format Q -/
  | seq (qk : SeqKey)
deriving DecidableEq, Repr

/-- Why a key selects no operation (30_encoding.md R70). A refusal of the decoder, safe: such a key cannot be formed
by any state. -/
inductive Reserved
  /-- `SLOT` in 10 to 15 -/
  | slot (code : BitVec 4)
  /-- `BIDX` in 6, 7 -/
  | bytePos (code : BitVec 3)
deriving DecidableEq, Repr

end Sys2Proof
end

