-- ==== Sys2Proof/Decode.lean ====
section
/-! DEFINITION. Decoding of the select keys (30_encoding.md R60 to R70) and, after it, the encoder. Total on every bit
pattern; reserved codes are rejected by name. -/

namespace Sys2Proof

/-- Format R: the operation `RK = {IDENT, SLOT}` selects (30_encoding.md R68). -/
def decodeRender (rk : RenderKey) : Except Reserved Instr :=
  match (rk.extractLsb' 0 4).toNat, rk.getLsbD 4 with
  | 0, ident => .ok (.start ident)
  | 1, false => .ok .dbit0
  | 2, false => .ok .dbit1
  | 3, false => .ok .dbit2
  | 4, false => .ok .dbit3
  | 5, false => .ok .dbit4
  | 6, false => .ok .dbit5
  | 7, false => .ok .dbit6
  | 8, false => .ok .dbit7
  | 1, true => .ok .mux0
  | 2, true => .ok .mux1
  | 3, true => .ok .mux2
  | 4, true => .ok .mux3
  | 5, true => .ok .mux4
  | 6, true => .ok .mux5
  | 7, true => .ok .mux6
  | 8, true => .ok .mux7
  | 9, ident => .ok (.stop ident)
  | _, _ => .error (.slot (rk.extractLsb' 0 4))

/-- Format Q: the operation `QK = {BIDX, EXP}` selects (30_encoding.md R69). -/
def decodeSeq (qk : SeqKey) : Except Reserved Instr :=
  match (qk.extractLsb' 1 3).toNat, qk.getLsbD 0 with
  | 0, false => .ok (.holdLow 0)
  | 1, false => .ok (.holdLow 1)
  | 2, false => .ok (.holdLow 2)
  | 3, false => .ok (.holdLow 3)
  | 4, false => .ok (.holdHigh false)
  | 5, false => .ok (.holdHigh true)
  | 5, true => .ok .adv4
  | 4, true => .ok .adv3
  | 3, true => .ok .adv2
  | 2, true => .ok .adv1
  | 1, true => .ok .adv0
  | 0, true => .ok .restart
  | _, _ => .error (.bytePos (qk.extractLsb' 1 3))

/-- Format EV: the operations of one clock edge in the order they are performed, `RESET` alone, else `STEP`, `DIVCLK`,
`TINC`, `CFGW` (30_encoding.md R65, 43_system.md R138). All sixteen vectors are legal (R71). -/
def decodeEvents (evt : EventVector) (wdata : CtlWord) : List Instr :=
  if evt.getLsbD 3 then [.reset]
  else
    (if evt.getLsbD 1 then [.step] else []) ++ [.divclk] ++
    (if evt.getLsbD 0 then [.tinc] else []) ++ (if evt.getLsbD 2 then [.cfgw wdata] else [])

/-- The operations a key selects, in order. -/
def decode : Key → Except Reserved (List Instr)
  | .event evt wdata => .ok (decodeEvents evt wdata)
  | .render rk => match decodeRender rk with
    | .ok i => .ok [i]
    | .error e => .error e
  | .seq qk => match decodeSeq qk with
    | .ok i => .ok [i]
    | .error e => .error e

/-- `RK` of a step word: `{IDENT, SW[3:0]}` with `IDENT = 1` exactly when `SW[7:5] = 0` (30_encoding.md R64). -/
def StepWord.renderKey (sw : StepWord) : RenderKey :=
  BitVec.ofBool (sw.extractLsb' 5 3 == 0) ++ sw.extractLsb' 0 4

/-- `QK = SW[7:4]` of a step word (30_encoding.md R64). -/
def StepWord.seqKey (sw : StepWord) : SeqKey := sw.extractLsb' 4 4

/-- Format S: the R operation and the Q operation a step word names (30_encoding.md R64); a word with `SLOT > 9` or
`BIDX > 5` names no `STEP` (R70). -/
def decodeStepWord (sw : StepWord) : Except Reserved (Instr × Instr) :=
  match decodeRender sw.renderKey, decodeSeq sw.seqKey with
  | .ok r, .ok q => .ok (r, q)
  | .error e, _ => .error e
  | _, .error e => .error e

/-- The key of an operation, from the same tables: an R or Q operation's own key, an event's vector with that event's
bit alone (30_encoding.md R65, R68, R69). -/
def encode : Instr → Key
  | .reset => .event 0b1000 0
  | .divclk => .event 0b0000 0
  | .tinc => .event 0b0001 0
  | .step => .event 0b0010 0
  | .cfgw v => .event 0b0100 v
  | .start ident => .render (BitVec.ofBool ident ++ 0b0000#4)
  | .dbit0 => .render 0b00001
  | .dbit1 => .render 0b00010
  | .dbit2 => .render 0b00011
  | .dbit3 => .render 0b00100
  | .dbit4 => .render 0b00101
  | .dbit5 => .render 0b00110
  | .dbit6 => .render 0b00111
  | .dbit7 => .render 0b01000
  | .mux0 => .render 0b10001
  | .mux1 => .render 0b10010
  | .mux2 => .render 0b10011
  | .mux3 => .render 0b10100
  | .mux4 => .render 0b10101
  | .mux5 => .render 0b10110
  | .mux6 => .render 0b10111
  | .mux7 => .render 0b11000
  | .stop ident => .render (BitVec.ofBool ident ++ 0b1001#4)
  | .holdLow pos => .seq (0b0#1 ++ pos ++ 0b0#1)
  | .holdHigh five => .seq (0b10#2 ++ BitVec.ofBool five ++ 0b0#1)
  | .adv4 => .seq 0b1011
  | .adv3 => .seq 0b1001
  | .adv2 => .seq 0b0111
  | .adv1 => .seq 0b0101
  | .adv0 => .seq 0b0011
  | .restart => .seq 0b0001

/-- One row of spec/opcode_table.json: the fixed bits of the row's key. -/
structure OpcodeRow where
  mask : Nat
  pattern : Nat
deriving DecidableEq, Repr

/-- The row of spec/opcode_table.json that an operation stands for, its `mask` and `match`. -/
def Instr.row : Instr → OpcodeRow
  | .reset => ⟨0x08, 0x08⟩
  | .divclk => ⟨0x08, 0x00⟩
  | .tinc => ⟨0x09, 0x01⟩
  | .step => ⟨0x0A, 0x02⟩
  | .cfgw _ => ⟨0x0C, 0x04⟩
  | .start _ => ⟨0x0F, 0x00⟩
  | .dbit0 => ⟨0x1F, 0x01⟩
  | .dbit1 => ⟨0x1F, 0x02⟩
  | .dbit2 => ⟨0x1F, 0x03⟩
  | .dbit3 => ⟨0x1F, 0x04⟩
  | .dbit4 => ⟨0x1F, 0x05⟩
  | .dbit5 => ⟨0x1F, 0x06⟩
  | .dbit6 => ⟨0x1F, 0x07⟩
  | .dbit7 => ⟨0x1F, 0x08⟩
  | .mux0 => ⟨0x1F, 0x11⟩
  | .mux1 => ⟨0x1F, 0x12⟩
  | .mux2 => ⟨0x1F, 0x13⟩
  | .mux3 => ⟨0x1F, 0x14⟩
  | .mux4 => ⟨0x1F, 0x15⟩
  | .mux5 => ⟨0x1F, 0x16⟩
  | .mux6 => ⟨0x1F, 0x17⟩
  | .mux7 => ⟨0x1F, 0x18⟩
  | .stop _ => ⟨0x0F, 0x09⟩
  | .holdLow _ => ⟨0x09, 0x00⟩
  | .holdHigh _ => ⟨0x0D, 0x08⟩
  | .adv4 => ⟨0x0F, 0x0B⟩
  | .adv3 => ⟨0x0F, 0x09⟩
  | .adv2 => ⟨0x0F, 0x07⟩
  | .adv1 => ⟨0x0F, 0x05⟩
  | .adv0 => ⟨0x0F, 0x03⟩
  | .restart => ⟨0x0F, 0x01⟩

/-- The select bits of a key as one number, bit 0 the least significant (00_scope.md R9). -/
def Key.bits : Key → Nat
  | .event evt _ => evt.toNat
  | .render rk => rk.toNat
  | .seq qk => qk.toNat

/-- The key a bare word of the opcode table is read as. The table's word does not say on which wires it stands, and
the three formats overlap: a word of five or more bits is read as a render key where it is one, then as a sequencer
key where it is one, then as an event vector; bits above the key's width must be 0. DESIGN CHOICE, log 9. -/
def readTableWord (nbits w : Nat) : Option Key :=
  if 5 ≤ nbits ∧ w < 32 ∧ (Except.toBool (decodeRender (BitVec.ofNat 5 w))) then
    some (.render (BitVec.ofNat 5 w))
  else if 16 ≤ w then none
  else if Except.toBool (decodeSeq (BitVec.ofNat 4 w)) then some (.seq (BitVec.ofNat 4 w))
  else some (.event (BitVec.ofNat 4 w) 0)

/-- The operation the decoder reads from a bare word of the opcode table: the first of those the key selects. -/
def decodeTableWord (nbits w : Nat) : Option Instr :=
  match readTableWord nbits w with
  | none => none
  | some key =>
    match decode key with
    | .ok (i :: _) => some i
    | _ => none

end Sys2Proof
end

