-- ==== Sys2Proof/Config.lean ====
section
/-! DEFINITION. The parameters of an instance of the engine (00_scope.md R5 to R7): fixed before the engine runs,
written by no operation (10_state.md R29). A model takes them as one configuration record. -/

namespace Sys2Proof

/-- Tick slots of one frame: one start, eight data, one stop (`FRAME_SLOTS`, 00_scope.md R5). -/
abbrev frameSlots : Nat := 10

/-- The parameters of an instance that are not derived from others (00_scope.md R6, R7). -/
structure Config where
  /-- `DEVID`, the Device Identifier (20_memory.md R41) -/
  devid : BitVec 32
  /-- `CIT`, the Channel Identification Table; bit `8*c + k` is row `c`, column `k` (20_memory.md R43) -/
  cit : BitVec 64
  /-- `DIV`, clock cycles in one tick -/
  div : Nat
  /-- `BYTE_TICKS`, tick slots in one byte -/
  byteTicks : Nat
  /-- `IDLE_TICKS`, the idle pause after the identification byte completes -/
  idleTicks : Nat
  /-- `W`, the width in bits of the tick counter -/
  width : Nat
deriving DecidableEq, Repr

/-- `RESTART_TICKS = BYTE_TICKS + IDLE_TICKS`, counted from the start of the identification byte (42_sequencer.md
R131). -/
def Config.restartTicks (c : Config) : Nat := c.byteTicks + c.idleTicks

/-- `PAUSE_TICKS = BYTE_TICKS - 10`, the inter-byte idle slots. Read by no operation; 0 where `BYTE_TICKS` is below 10,
which is ill-formed and for which the spec gives no value (DESIGN CHOICE, log 17). -/
def Config.pauseTicks (c : Config) : Nat := c.byteTicks - frameSlots

/-- Ticks in one cycle, `5 * BYTE_TICKS + IDLE_TICKS` (42_sequencer.md R126). -/
def Config.cycleTicks (c : Config) : Nat := 5 * c.byteTicks + c.idleTicks

/-- `DIV = floor(CLK_HZ / BAUD)`, how an instance derives its divisor (40_tick_clock.md R85). Read by no operation; 0
where `BAUD` is 0, for which the spec gives no value (DESIGN CHOICE, log 17). -/
def Config.divFromClock (clkHz baud : Nat) : Nat := clkHz / baud

/-- `DEVID` is OPEN, with no default and no sentinel (92_eei_decisions.md D9): nothing can be proved of it.
DESIGN CHOICE, log 2. -/
opaque Config.openDevid : BitVec 32

/-- `CIT` is OPEN: its 64 bits are not in the source (92_eei_decisions.md D8). DESIGN CHOICE, log 2. -/
opaque Config.openCit : BitVec 64

/-- `DIV - 1` is OPEN (92_eei_decisions.md D7); `DIV` itself is at least 1 in a well-formed instance. DESIGN CHOICE,
log 2. -/
opaque Config.openReload : Nat

/-- `PAUSE_TICKS` is OPEN, so that `BYTE_TICKS` is any number from 10 on (92_eei_decisions.md D2). DESIGN CHOICE,
log 2. -/
opaque Config.openPause : Nat

/-- `IDLE_TICKS` is OPEN: its default is for tests only (92_eei_decisions.md D3). DESIGN CHOICE, log 2. -/
opaque Config.openIdle : Nat

/-- How many bits `W` has beyond those `RESTART_TICKS` needs is OPEN (92_eei_decisions.md D6). DESIGN CHOICE, log 2. -/
opaque Config.openSpareBits : Nat

/-- The instance that `State.reset` stands for: one whose timing is well-formed, and nothing else is known of it
(00_scope.md R6, R7; the values of R6's table are used in tests only). The form leaves no such instance out: `BYTE_TICKS`
is at least 10, `DIV` at least 1, and `2^W > RESTART_TICKS` says that `W` is above the base 2 logarithm of
`RESTART_TICKS`. DESIGN CHOICE, log 2. -/
def Config.openInstance : Config where
  devid := Config.openDevid
  cit := Config.openCit
  div := Config.openReload + 1
  byteTicks := Config.openPause + frameSlots
  idleTicks := Config.openIdle
  width := Nat.log2 (Config.openPause + frameSlots + Config.openIdle) + 1 + Config.openSpareBits

/-- FREE VALUE: the count at which an armed divider reloads in an instance with `DIV = 0`, where `DIV - 1` is no value
of `DIVCNT` and the spec, which calls the instance ill-formed, states none (40_tick_clock.md R81, R85, 00_scope.md R8).
DESIGN CHOICE, log 17. -/
opaque Config.freeReload : Nat

end Sys2Proof
end

