-- ==== Sys2Proof/Machine/State.lean ====
section
/-! DEFINITION. The state of the engine (10_state.md R15): six registers, all there are, and beside them two fields of
the model's own, the instance's parameters and the coming samples of the input ports. -/

namespace Sys2Proof.Machine

/-- The input ports as sampled at one rising edge of `clk` (10_state.md R32 to R34). -/
structure Ports where
  /-- `rst`, active high -/
  rst : Bool
  /-- `cfg_we` -/
  cfgWe : Bool
  /-- `cfg_wdata[10:0]` -/
  cfgWdata : CtlWord
  /-- `step`, the poll strobe -/
  step : Bool
deriving DecidableEq, Repr

/-- All input ports low. -/
def Ports.idle : Ports where
  rst := false
  cfgWe := false
  cfgWdata := 0
  step := false

/-- The whole state. -/
structure State where
  /-- the parameters of the instance: the MODEL's own field, written by no operation (10_state.md R29; log 1) -/
  cfg : Config
  /-- the port samples of the coming edges, the next edge first: the MODEL's own field (log 3) -/
  inputs : List Ports
  /-- `TCNT`, `W` bits: a number below `2 ^ cfg.width` (10_state.md R16; log 6) -/
  tcnt : Nat
  /-- `BIDX`, 3 bits (10_state.md R17) -/
  bidx : BytePos
  /-- `DATA` (10_state.md R18) -/
  data : Byte
  /-- `OUT`, bit `c` the level of channel `c` (10_state.md R19) -/
  out : Byte
  /-- `CTL = {GIE, TIE, ARM, OE[7:0]}` (10_state.md R21) -/
  ctl : CtlWord
  /-- `DIVCNT`, a number below `DIV` (10_state.md R28; log 6) -/
  divcnt : Nat
deriving DecidableEq, Repr

/-- Why the machine stops with a fault: never. The set of synchronous exceptions is empty and no state is an error
state (60_exceptions.md R145, 42_sequencer.md R130), so this type has no constructor. -/
inductive Fault
deriving DecidableEq, Repr

/-- Why the machine refuses a step. -/
inductive Refusal
  /-- Raised by `exec` for an operation without a meaning. Safe. No arm of this model raises it. -/
  | notModelled (mnemonic : String)
  /-- Raised by `step` in an instance whose `DIV`, `BYTE_TICKS` or `W` breaks a constraint of 00_scope.md R6: a model
  gives such a configuration no meaning (R8, 93_implementation_defined.md U6). Safe: nothing is claimed of it. -/
  | illFormedConfiguration
deriving DecidableEq, Repr

/-- The state right after reset of the instance with parameters `c`: every register at its value of 10_state.md R37,
no port sampled yet. -/
def State.resetOf (c : Config) : State where
  cfg := c
  inputs := []
  tcnt := 0
  bidx := .b0
  data := 0x00
  out := 0xFF
  ctl := 0
  divcnt := 0

/-- The machine right after reset (10_state.md R37, 70_reset_and_hazards.md R165), for the OPEN instance of log 2. -/
def State.reset : State := State.resetOf Config.openInstance

end Sys2Proof.Machine
end

