-- ==== Sys2Proof/Machine/Flags.lean ====
section
/-! DEFINITION. The derived predicates, the engine's flags (10_state.md R25 to R27): computed, never stored. The fields
of `CTL` (R21) and the wires of the divider (40_tick_clock.md R81). -/

namespace Sys2Proof.Machine

/-- `IDENT = 1` when `BIDX == 0` (10_state.md R25). -/
def identOf : BytePos → Bool
  | .b0 => true
  | .b1 => false
  | .b2 => false
  | .b3 => false
  | .b4 => false
  | .b5 => false

/-- `SLOT = min(TCNT, 9)` (10_state.md R26). -/
def slotOf (t : Nat) : Nat := min t 9

/-- The threshold `TCNT` is compared with: `RESTART_TICKS` when `BIDX == 0`, else `BYTE_TICKS` (10_state.md R27). -/
def thresholdOf (cfg : Config) (b : BytePos) : Nat :=
  if identOf b then cfg.restartTicks else cfg.byteTicks

/-- `EXP`, the threshold is reached (10_state.md R27). -/
def expOf (cfg : Config) (b : BytePos) (t : Nat) : Bool := decide (thresholdOf cfg b ≤ t)

/-- `IDENT` of a state. -/
def State.ident (s : State) : Bool := identOf s.bidx

/-- `SLOT` of a state. -/
def State.slot (s : State) : Nat := slotOf s.tcnt

/-- `EXP` of a state. -/
def State.exp (s : State) : Bool := expOf s.cfg s.bidx s.tcnt

/-- `CTL.OE[c]`, channel `c`'s pins are driven (10_state.md R21, R22). -/
def State.oe (s : State) (c : Nat) : Bool := decide (c < 8) && s.ctl.getLsbD c

/-- `CTL.ARM`, the divider runs (10_state.md R21, R23). -/
def State.arm (s : State) : Bool := s.ctl.getLsbD 8

/-- `CTL.TIE` (10_state.md R21, R23). -/
def State.tie (s : State) : Bool := s.ctl.getLsbD 9

/-- `CTL.GIE` (10_state.md R21, R23). -/
def State.gie (s : State) : Bool := s.ctl.getLsbD 10

/-- The tick interrupt can be taken: `CTL.ARM`, `CTL.TIE` and `CTL.GIE` are all 1 (40_tick_clock.md R84). -/
def State.ticksEnabled (s : State) : Bool := s.arm && s.tie && s.gie

/-- `DIV - 1`, the count at which the divider reloads (40_tick_clock.md R81). At `DIV = 0`, ill-formed, the spec states no
value and the count is free (DESIGN CHOICE, log 17). -/
def reloadOf (cfg : Config) : Nat :=
  match cfg.div with
  | 0 => Config.freeReload
  | n + 1 => n

/-- The wire `expire` of `DIVCLK` at this edge (40_tick_clock.md R81). -/
def State.expire (s : State) : Bool := s.arm && s.divcnt == reloadOf s.cfg

/-- The wire `tick = expire and CTL.TIE and CTL.GIE` (40_tick_clock.md R81, 60_exceptions.md R148). -/
def State.tick (s : State) : Bool := s.expire && s.tie && s.gie

end Sys2Proof.Machine
end

