-- ==== Sys2Proof/Machine/Operands.lean ====
section
/-! DEFINITION. Operand reads and the select keys: the two read-only tables (20_memory.md R42 to R45), the keys a state
and the ports form (30_encoding.md R61 to R65), and the sample of the ports at the next edge. -/

namespace Sys2Proof.Machine

/-- `Rep8(b)`: `0xFF` when `b = 1`, `0x00` when `b = 0` (00_scope.md R12). -/
def rep8 (b : Bool) : Byte := if b then 0xFF else 0x00

/-- `IdByte(j) = DEVID[8*j+7 : 8*j]` (20_memory.md R42). -/
def idByte (cfg : Config) (j : Nat) : Byte := cfg.devid.extractLsb' (8 * j) 8

/-- `Pattern(c, k) = CIT[8*c + k]` (20_memory.md R44). -/
def pattern (cfg : Config) (c k : Nat) : Bool := cfg.cit.getLsbD (8 * c + k)

/-- `Column(k)`, bit `c` is `Pattern(c, k)` (20_memory.md R45). -/
def column (cfg : Config) (k : Nat) : Byte :=
  BitVec.ofBoolListLE [pattern cfg 0 k, pattern cfg 1 k, pattern cfg 2 k, pattern cfg 3 k,
    pattern cfg 4 k, pattern cfg 5 k, pattern cfg 6 k, pattern cfg 7 k]

/-- The 3-bit code of `BIDX` (10_state.md R17). -/
def posCode : BytePos → BitVec 3
  | .b0 => 0
  | .b1 => 1
  | .b2 => 2
  | .b3 => 3
  | .b4 => 4
  | .b5 => 5

/-- The byte position of a 3-bit code; none for 6 and 7 (30_encoding.md R70). -/
def posOfCode (code : BitVec 3) : Option BytePos :=
  match code.toNat with
  | 0 => some .b0
  | 1 => some .b1
  | 2 => some .b2
  | 3 => some .b3
  | 4 => some .b4
  | 5 => some .b5
  | _ => none

/-- The payload that belongs to a byte position: `IdByte(BIDX - 1)` for 1 to 4, zero for 0 and 5 (10_state.md R17,
R30). -/
def payloadOf (cfg : Config) : BytePos → Byte
  | .b0 => 0
  | .b1 => idByte cfg 0
  | .b2 => idByte cfg 1
  | .b3 => idByte cfg 2
  | .b4 => idByte cfg 3
  | .b5 => 0

/-- `RK = {IDENT, SLOT}` (30_encoding.md R61). -/
def State.renderKey (s : State) : RenderKey := BitVec.ofBool s.ident ++ BitVec.ofNat 4 s.slot

/-- `QK = {BIDX, EXP}` (30_encoding.md R62). -/
def State.seqKey (s : State) : SeqKey := posCode s.bidx ++ BitVec.ofBool s.exp

/-- `SW = {BIDX, EXP, SLOT}` (30_encoding.md R64). -/
def State.stepWord (s : State) : StepWord :=
  posCode s.bidx ++ BitVec.ofBool s.exp ++ BitVec.ofNat 4 s.slot

/-- `EVT = {rst, cfg_we, step, tick}` of the edge that samples `p` (30_encoding.md R65). Bit 0 is formed by `DIVCLK`,
which an edge with `rst` does not perform, so it is 0 there (43_system.md R138; DEDUCED, log 12). -/
def State.eventVector (p : Ports) (s : State) : EventVector :=
  BitVec.ofBool p.rst ++ BitVec.ofBool p.cfgWe ++ BitVec.ofBool p.step ++ BitVec.ofBool (!p.rst && s.tick)

/-- The sample of the ports at the next edge; ports held low once the listed samples are used up (DESIGN CHOICE,
log 3). -/
def State.ports (s : State) : Ports :=
  match s.inputs with
  | [] => Ports.idle
  | p :: _ => p

end Sys2Proof.Machine
end

