-- ==== Sys2Proof/Machine/Ops.lean ====
section
/-! DEFINITION. The named writes that the operations are made of. Each writes the registers its docstring names and no
other. -/

namespace Sys2Proof.Machine

/-- Go on with `f` from the next state; a fault or a refusal ends it. -/
def andThen (o : Host.Outcome State Fault Refusal) (f : State → Host.Outcome State Fault Refusal) :
    Host.Outcome State Fault Refusal :=
  match o with
  | .next s => f s
  | .fault r => .fault r
  | .refused r => .refused r

/-- `OUT <- Rep8(level)`: one level on every channel (41_render.md R91, R92, R110). Writes `OUT`. -/
def State.driveAll (s : State) (level : Bool) : State := { s with out := rep8 level }

/-- `OUT <- Rep8(DATA[k])`: broadcast one payload bit (41_render.md R92). Writes `OUT`. -/
def State.drivePayloadBit (s : State) (k : Nat) : State := s.driveAll (s.data.getLsbD k)

/-- `OUT <- Column(k)`: steer one table column to the channels (41_render.md R101). Writes `OUT`. -/
def State.driveColumn (s : State) (k : Nat) : State := { s with out := column s.cfg k }

/-- `BIDX <- n ; DATA <- d ; TCNT <- 0`: begin a byte (42_sequencer.md R118 to R122). Writes `BIDX`, `DATA`, `TCNT`. -/
def State.beginByte (s : State) (n : BytePos) (d : Byte) : State := { s with bidx := n, data := d, tcnt := 0 }

/-- `BIDX <- 5` (42_sequencer.md R123). Writes `BIDX`. -/
def State.restartCycle (s : State) : State := { s with bidx := .b5 }

/-- Taking the tick interrupt: its whole entry, handler and return is `TCNT <- (TCNT + 1) mod 2^W`
(40_tick_clock.md R82, 60_exceptions.md R149, R152, R153). Writes `TCNT`. -/
def State.takeTick (s : State) : State := { s with tcnt := (s.tcnt + 1) % 2 ^ s.cfg.width }

/-- The divider's advance: held at 0 unarmed, reload at `DIV - 1`, else count up (40_tick_clock.md R81). Writes
`DIVCNT`. Two points the spec leaves open are the model's choice (DESIGN CHOICE): at `DIV = 0` the reload count is a free
value (log 17), and above the reload count the divider counts on (log 6). -/
def State.advanceDivider (s : State) : State :=
  { s with divcnt := if s.arm then (if s.divcnt == reloadOf s.cfg then 0 else s.divcnt + 1) else 0 }

/-- `CTL <- v` (43_system.md R136). Writes `CTL`. -/
def State.writeCtl (s : State) (v : CtlWord) : State := { s with ctl := v }

/-- Every register to its reset value (43_system.md R135, 10_state.md R37). The parameters and the environment's coming
port samples are not registers. -/
def State.resetRegisters (s : State) : State :=
  { s with tcnt := 0, bidx := .b0, data := 0x00, out := 0xFF, ctl := 0, divcnt := 0 }

/-- The sample of this edge is used up. Writes the model's own `inputs`. -/
def State.nextPorts (s : State) : State := { s with inputs := s.inputs.tail }

/-- The next edge samples `p`, the listed samples after it. Writes the model's own `inputs`. -/
def State.pushPorts (s : State) (p : Ports) : State := { s with inputs := p :: s.inputs }

/-- The sequencer at position `b`, slot `t`, with the payload of that byte (10_state.md R24). -/
def State.placeAt (s : State) (b : BytePos) (t : Nat) : State :=
  { s with bidx := b, data := payloadOf s.cfg b, tcnt := t }

/-- Place the engine so that the next edge performs a `STEP` whose render key is `rk`: a byte position with that
`IDENT` (the present one where it fits, else 0 or 4) and the first offset with that `SLOT` (log 10). -/
def State.placeRender (s : State) (rk : RenderKey) : State :=
  let b := if rk.getLsbD 4 = s.ident then s.bidx else if rk.getLsbD 4 then .b0 else .b4
  (s.placeAt b (rk.extractLsb' 0 4).toNat).pushPorts { Ports.idle with step := true }

/-- Place the engine so that the next edge performs a `STEP` whose sequencer key is `qk`: that byte position, at its
threshold when `EXP` is 1 and at offset 0 when it is 0 (log 10). -/
def State.placeSeq (s : State) (qk : SeqKey) : State :=
  match posOfCode (qk.extractLsb' 1 3) with
  | none => s
  | some b =>
    (s.placeAt b (if qk.getLsbD 0 then thresholdOf s.cfg b else 0)).pushPorts { Ports.idle with step := true }

/-- Place the engine so that the next edge has the event vector `evt`: the three port bits on the ports; for bit 0 the
divider at its end and the tick enabled, or, where it must be 0, `CTL.TIE` cleared if this edge would tick (log 10). -/
def State.placeEvent (s : State) (evt : EventVector) (wdata : CtlWord) : State :=
  let t : State :=
    if evt.getLsbD 0 then { s with ctl := s.ctl ||| 0x700, divcnt := reloadOf s.cfg }
    else if s.tick then { s with ctl := s.ctl &&& 0x5FF } else s
  t.pushPorts { rst := evt.getLsbD 3, cfgWe := evt.getLsbD 2, cfgWdata := wdata, step := evt.getLsbD 1 }

/-- The same state in an instance with the timing of 95_test_vectors.md: `BYTE_TICKS` 24, `IDLE_TICKS` 120, `W` 16, values
for tests only (00_scope.md R6); a `DIV` of at least 1, `DEVID` and `CIT` stay. Used by `withFetchWord` alone, so that
the step it prepares runs whatever the instance: the machine refuses an ill-formed one, and the thresholds of an OPEN
one have no numeral to compare with (DESIGN CHOICE, log 10). Writes the model's own `cfg`. -/
def State.withTestTiming (s : State) : State :=
  { s with cfg := { s.cfg with div := reloadOf s.cfg + 1, byteTicks := 24, idleTicks := 120, width := 16 } }

/-- Place a bare word of the opcode table, read as `readTableWord` reads it, where the next edge performs it. -/
def State.placeKey (s : State) : Key → State
  | .event evt wdata => s.placeEvent evt wdata
  | .render rk => s.placeRender rk
  | .seq qk => s.placeSeq qk

end Sys2Proof.Machine
end

