-- ==== Sys2Proof/Machine/Render.lean ====
section
/-! DEFINITION. Family R, the Frame Output Driver (41_render.md): the eighteen operations the render key selects, one
definition each, and the dispatcher `RENDER`. Each writes all eight bits of `OUT` and nothing else (R111). -/

namespace Sys2Proof.Machine

/-- `START`: every channel LOW, whatever `IDENT` (41_render.md R91). -/
def execStart (_ident : Bool) (s : State) : Host.Outcome State Fault Refusal := .next (s.driveAll false)

/-- `DBIT0`: broadcast payload bit 0 (41_render.md R93). -/
def execDbit0 (s : State) : Host.Outcome State Fault Refusal := .next (s.drivePayloadBit 0)

/-- `DBIT1`: broadcast payload bit 1 (41_render.md R94). -/
def execDbit1 (s : State) : Host.Outcome State Fault Refusal := .next (s.drivePayloadBit 1)

/-- `DBIT2`: broadcast payload bit 2 (41_render.md R95). -/
def execDbit2 (s : State) : Host.Outcome State Fault Refusal := .next (s.drivePayloadBit 2)

/-- `DBIT3`: broadcast payload bit 3 (41_render.md R96). -/
def execDbit3 (s : State) : Host.Outcome State Fault Refusal := .next (s.drivePayloadBit 3)

/-- `DBIT4`: broadcast payload bit 4 (41_render.md R97). -/
def execDbit4 (s : State) : Host.Outcome State Fault Refusal := .next (s.drivePayloadBit 4)

/-- `DBIT5`: broadcast payload bit 5 (41_render.md R98). -/
def execDbit5 (s : State) : Host.Outcome State Fault Refusal := .next (s.drivePayloadBit 5)

/-- `DBIT6`: broadcast payload bit 6 (41_render.md R99). -/
def execDbit6 (s : State) : Host.Outcome State Fault Refusal := .next (s.drivePayloadBit 6)

/-- `DBIT7`: broadcast payload bit 7 (41_render.md R100). -/
def execDbit7 (s : State) : Host.Outcome State Fault Refusal := .next (s.drivePayloadBit 7)

/-- `MUX0`: steer column 0 of the table to the channels (41_render.md R102). -/
def execMux0 (s : State) : Host.Outcome State Fault Refusal := .next (s.driveColumn 0)

/-- `MUX1`: steer column 1 of the table to the channels (41_render.md R103). -/
def execMux1 (s : State) : Host.Outcome State Fault Refusal := .next (s.driveColumn 1)

/-- `MUX2`: steer column 2 of the table to the channels (41_render.md R104). -/
def execMux2 (s : State) : Host.Outcome State Fault Refusal := .next (s.driveColumn 2)

/-- `MUX3`: steer column 3 of the table to the channels (41_render.md R105). -/
def execMux3 (s : State) : Host.Outcome State Fault Refusal := .next (s.driveColumn 3)

/-- `MUX4`: steer column 4 of the table to the channels (41_render.md R106). -/
def execMux4 (s : State) : Host.Outcome State Fault Refusal := .next (s.driveColumn 4)

/-- `MUX5`: steer column 5 of the table to the channels (41_render.md R107). -/
def execMux5 (s : State) : Host.Outcome State Fault Refusal := .next (s.driveColumn 5)

/-- `MUX6`: steer column 6 of the table to the channels (41_render.md R108). -/
def execMux6 (s : State) : Host.Outcome State Fault Refusal := .next (s.driveColumn 6)

/-- `MUX7`: steer column 7 of the table to the channels (41_render.md R109). -/
def execMux7 (s : State) : Host.Outcome State Fault Refusal := .next (s.driveColumn 7)

/-- `STOP`: every channel HIGH, whatever `IDENT` (41_render.md R110). -/
def execStop (_ident : Bool) (s : State) : Host.Outcome State Fault Refusal := .next (s.driveAll true)

/-- `RENDER`, the first half of every `STEP`, from the sampled byte position `b` and offset `t`: `START` at offset 0,
a data bit or a table column at offsets 1 to 8, `STOP` above (41_render.md R90). `DATA` is read from `s`, where it
still has its sampled value. -/
def render (b : BytePos) (t : Nat) (s : State) : Host.Outcome State Fault Refusal :=
  match t, identOf b with
  | 0, ident => execStart ident s
  | 1, false => execDbit0 s
  | 2, false => execDbit1 s
  | 3, false => execDbit2 s
  | 4, false => execDbit3 s
  | 5, false => execDbit4 s
  | 6, false => execDbit5 s
  | 7, false => execDbit6 s
  | 8, false => execDbit7 s
  | 1, true => execMux0 s
  | 2, true => execMux1 s
  | 3, true => execMux2 s
  | 4, true => execMux3 s
  | 5, true => execMux4 s
  | 6, true => execMux5 s
  | 7, true => execMux6 s
  | 8, true => execMux7 s
  | _, ident => execStop ident s

end Sys2Proof.Machine
end

