-- ==== Sys2Proof/Machine/Sequencer.lean ====
section
/-! DEFINITION. Family Q, the Broadcast Sequencer (42_sequencer.md): the operations the sequencer key selects, one
definition each, the dispatcher `SEQ`, and the composite `STEP`. -/

namespace Sys2Proof.Machine

/-- `HOLD` with `BIDX` 0 to 3: nothing is written (42_sequencer.md R117). -/
def execHoldLow (_pos : BitVec 2) (s : State) : Host.Outcome State Fault Refusal := .next s

/-- `HOLD` with `BIDX` 4 or 5: nothing is written (42_sequencer.md R117). -/
def execHoldHigh (_five : Bool) (s : State) : Host.Outcome State Fault Refusal := .next s

/-- `ADV4`: begin identifier byte 3, the cycle's first byte (42_sequencer.md R118). -/
def execAdv4 (s : State) : Host.Outcome State Fault Refusal := .next (s.beginByte .b4 (idByte s.cfg 3))

/-- `ADV3`: begin identifier byte 2 (42_sequencer.md R119). -/
def execAdv3 (s : State) : Host.Outcome State Fault Refusal := .next (s.beginByte .b3 (idByte s.cfg 2))

/-- `ADV2`: begin identifier byte 1 (42_sequencer.md R120). -/
def execAdv2 (s : State) : Host.Outcome State Fault Refusal := .next (s.beginByte .b2 (idByte s.cfg 1))

/-- `ADV1`: begin identifier byte 0 (42_sequencer.md R121). -/
def execAdv1 (s : State) : Host.Outcome State Fault Refusal := .next (s.beginByte .b1 (idByte s.cfg 0))

/-- `ADV0`: begin the identification byte, payload 0 (42_sequencer.md R122). -/
def execAdv0 (s : State) : Host.Outcome State Fault Refusal := .next (s.beginByte .b0 0x00)

/-- `RESTART`: back to the top of the cycle; `TCNT` and `DATA` are not written (42_sequencer.md R123). -/
def execRestart (s : State) : Host.Outcome State Fault Refusal := .next s.restartCycle

/-- `SEQ`, the second half of every `STEP`, from the sampled byte position `b` and offset `t` (42_sequencer.md
R116). -/
def seq (b : BytePos) (t : Nat) (s : State) : Host.Outcome State Fault Refusal :=
  match b with
  | .b0 => if s.cfg.restartTicks ≤ t then execRestart s else execHoldLow 0 s
  | .b1 => if s.cfg.byteTicks ≤ t then execAdv0 s else execHoldLow 1 s
  | .b2 => if s.cfg.byteTicks ≤ t then execAdv1 s else execHoldLow 2 s
  | .b3 => if s.cfg.byteTicks ≤ t then execAdv2 s else execHoldLow 3 s
  | .b4 => if s.cfg.byteTicks ≤ t then execAdv3 s else execHoldHigh false s
  | .b5 => if s.cfg.byteTicks ≤ t then execAdv4 s else execHoldHigh true s

/-- `STEP`, one poll: `BIDX` and `TCNT` sampled once, `RENDER` and then `SEQ`, both from the samples
(42_sequencer.md R115). -/
def execStep (s : State) : Host.Outcome State Fault Refusal :=
  let t := s.tcnt
  let b := s.bidx
  andThen (render b t s) (seq b t)

end Sys2Proof.Machine
end

