-- ==== Sys2Proof/Machine/TickClock.lean ====
section
/-! DEFINITION. Family T, the Tick Clock (40_tick_clock.md). -/

namespace Sys2Proof.Machine

/-- `DIVCLK`: the divider's advance (40_tick_clock.md R81). The wires it produces for the same edge, `expire` and
`tick`, are `State.expire` and `State.tick` of the state at the start of the edge. -/
def execDivclk (s : State) : Host.Outcome State Fault Refusal := .next s.advanceDivider

/-- `TINC`: the tick counter's increment, the whole body of the tick interrupt (40_tick_clock.md R82). -/
def execTinc (s : State) : Host.Outcome State Fault Refusal := .next s.takeTick

end Sys2Proof.Machine
end

