-- ==== Sys2Proof/Machine/System.lean ====
section
/-! DEFINITION. Family S, host and system operations (43_system.md): `RESET`, `CFGW` and the composite `CLKEDGE`. -/

namespace Sys2Proof.Machine

/-- `RESET`: power-on (43_system.md R135). -/
def execReset (s : State) : Host.Outcome State Fault Refusal := .next s.resetRegisters

/-- `CFGW v`: the host writes the control register (43_system.md R136). -/
def execCfgw (v : CtlWord) (s : State) : Host.Outcome State Fault Refusal := .next (s.writeCtl v)

/-- `CLKEDGE(rst, cfg_we, cfg_wdata, step)`: one rising edge of `clk` (43_system.md R137): `RESET` alone, or `STEP`,
`DIVCLK`, `TINC`, `CFGW`, each where its event falls on the edge, in this order (R138). `tick` is formed from `DIVCNT`
and `CTL` as before the edge. -/
def clkEdge (p : Ports) (s : State) : Host.Outcome State Fault Refusal :=
  if p.rst then execReset s
  else
    andThen (if p.step then execStep s else .next s) fun s1 =>
    andThen (execDivclk s1) fun s2 =>
    andThen (if s.tick then execTinc s2 else .next s2) fun s3 =>
    if p.cfgWe then execCfgw p.cfgWdata s3 else .next s3

/-- One edge of the machine with the ports it samples: the next sample is used up, and the edge performed
(43_system.md R137). -/
def nextEdge (s : State) : Host.Outcome State Fault Refusal := clkEdge s.ports s.nextPorts

end Sys2Proof.Machine
end

