-- ==== Sys2Proof/Machine/Dispatch.lean ====
section
/-! DEFINITION. One arm per operation. -/

namespace Sys2Proof.Machine

def exec (i : Instr) (s : State) : Host.Outcome State Fault Refusal :=
  match i with
  | .reset => Sys2Proof.Machine.execReset s
  | .divclk => Sys2Proof.Machine.execDivclk s
  | .tinc => Sys2Proof.Machine.execTinc s
  | .step => Sys2Proof.Machine.execStep s
  | .cfgw v => Sys2Proof.Machine.execCfgw v s
  | .start ident => Sys2Proof.Machine.execStart ident s
  | .dbit0 => Sys2Proof.Machine.execDbit0 s
  | .dbit1 => Sys2Proof.Machine.execDbit1 s
  | .dbit2 => Sys2Proof.Machine.execDbit2 s
  | .dbit3 => Sys2Proof.Machine.execDbit3 s
  | .dbit4 => Sys2Proof.Machine.execDbit4 s
  | .dbit5 => Sys2Proof.Machine.execDbit5 s
  | .dbit6 => Sys2Proof.Machine.execDbit6 s
  | .dbit7 => Sys2Proof.Machine.execDbit7 s
  | .mux0 => Sys2Proof.Machine.execMux0 s
  | .mux1 => Sys2Proof.Machine.execMux1 s
  | .mux2 => Sys2Proof.Machine.execMux2 s
  | .mux3 => Sys2Proof.Machine.execMux3 s
  | .mux4 => Sys2Proof.Machine.execMux4 s
  | .mux5 => Sys2Proof.Machine.execMux5 s
  | .mux6 => Sys2Proof.Machine.execMux6 s
  | .mux7 => Sys2Proof.Machine.execMux7 s
  | .stop ident => Sys2Proof.Machine.execStop ident s
  | .holdLow pos => Sys2Proof.Machine.execHoldLow pos s
  | .holdHigh five => Sys2Proof.Machine.execHoldHigh five s
  | .adv4 => Sys2Proof.Machine.execAdv4 s
  | .adv3 => Sys2Proof.Machine.execAdv3 s
  | .adv2 => Sys2Proof.Machine.execAdv2 s
  | .adv1 => Sys2Proof.Machine.execAdv1 s
  | .adv0 => Sys2Proof.Machine.execAdv0 s
  | .restart => Sys2Proof.Machine.execRestart s

end Sys2Proof.Machine
end

