-- ==== Sys2Proof/WellFormed.lean ====
section
/-! DEFINITION. Well-formedness (00_scope.md R8): the checks on a configuration, and the check on a key. An operation
of `Instr` carries only fields of the exact width of its encoding, so every term of `Instr` is well-formed
(DESIGN CHOICE, log 11). -/

namespace Sys2Proof

/-- `DIV >= 1` (00_scope.md R6, 40_tick_clock.md R85). -/
def Config.divOk (c : Config) : Bool := decide (1 ≤ c.div)

/-- `BYTE_TICKS >= 10` (00_scope.md R6). -/
def Config.byteTicksOk (c : Config) : Bool := decide (frameSlots ≤ c.byteTicks)

/-- `2^W > RESTART_TICKS` (00_scope.md R6, 70_reset_and_hazards.md R173). -/
def Config.widthOk (c : Config) : Bool := decide (c.restartTicks < 2 ^ c.width)

/-- The three constraints of 00_scope.md R6, which a model refuses to run without (93_implementation_defined.md
U6). -/
def Config.timingOk (c : Config) : Bool := c.divOk && c.byteTicksOk && c.widthOk

/-- Row `c` of column `k` of the table, for the two checks below (20_memory.md R43). -/
def Config.citBit (cfg : Config) (c k : Nat) : Bool := cfg.cit.getLsbD (8 * c + k)

/-- K1, common marker: columns 0 to 2 are the same for all eight channels (20_memory.md R46). -/
def Config.markerOk (cfg : Config) : Bool :=
  (List.range 3).all fun k => (List.range 8).all fun c => cfg.citBit c k == cfg.citBit 0 k

/-- K2, at most one channel per remaining column (20_memory.md R46). -/
def Config.columnsOk (cfg : Config) : Bool :=
  [3, 4, 5, 6, 7].all fun k => ((List.range 8).countP fun c => cfg.citBit c k) ≤ 1

/-- A configuration is well-formed when every constraint of R6 holds and `CIT` meets R46 (00_scope.md R8). No
transition of the engine depends on the last two checks (20_memory.md R46). -/
def Config.wellFormed (c : Config) : Bool := c.timingOk && c.markerOk && c.columnsOk

/-- A key that selects an operation: `SLOT` at most 9, `BIDX` at most 5; every event vector (30_encoding.md R70,
R71). -/
def Key.wellFormed : Key → Bool
  | .event _ _ => true
  | .render rk => decide ((rk.extractLsb' 0 4).toNat ≤ 9)
  | .seq qk => decide ((qk.extractLsb' 1 3).toNat ≤ 5)

end Sys2Proof
end

