-- ==== Sys2Proof/Machine/Step.lean ====
section
/-! DEFINITION. The machine's step: one rising edge of `clk`, the step function of the clock-level model
(43_system.md R137; log 4). -/

namespace Sys2Proof.Machine

/-- One clock edge. An instance whose timing parameters are ill-formed is refused (00_scope.md R8,
93_implementation_defined.md U6; log 7). -/
def step (s : State) : Host.Outcome State Fault Refusal :=
  if s.cfg.timingOk then nextEdge s else .refused .illFormedConfiguration

/-- The state in which the next step performs the operation that a bare word of the opcode table stands for, in an
instance with the timing of the tests (log 10). -/
def State.withFetchWord (s : State) (nbits w : Nat) : State :=
  match readTableWord nbits w with
  | none => s
  | some key => s.withTestTiming.placeKey key

end Sys2Proof.Machine
end

