-- ==== Sys2Proof/Machine/Pins.lean ====
section
/-! DEFINITION. The 64 output pins (10_state.md R20, R35): not state, a function of `OUT` and `CTL.OE`, the only
observable of the engine (R36). -/

namespace Sys2Proof.Machine

/-- What the engine puts on a pin. `z`: not driven; what a prober then reads is outside the engine
(93_implementation_defined.md U4; log 13). -/
inductive PinLevel
  | low
  | high
  | z
deriving DecidableEq, Repr

/-- A driven level: 1 is HIGH, 0 is LOW (00_scope.md R12). -/
def PinLevel.ofBool (b : Bool) : PinLevel := if b then .high else .low

/-- `PIN[c][p]`: `OUT[c]` when `CTL.OE[c] = 1`, for every pin `p` of the channel alike; else not driven
(10_state.md R20). -/
def State.pin (s : State) (c _p : Fin 8) : PinLevel :=
  if s.oe c then PinLevel.ofBool (s.out.getLsbD c) else .z

end Sys2Proof.Machine
end

