-- ==== Sys2Proof/Machine/Run.lean ====
section
/-! DEFINITION. Runs of operations: a list of operations performed one after another, as one clock edge performs its
events (43_system.md R138) and as an event-level run performs them (00_scope.md R13). -/

namespace Sys2Proof.Machine

/-- Perform the operations in order. -/
def runOps : List Instr → State → Host.Outcome State Fault Refusal
  | [], s => .next s
  | i :: rest, s => andThen (exec i s) (runOps rest)

end Sys2Proof.Machine
end

