-- ==== Sys2Proof/Safety.lean ====
section
/-! DEFINITION. What counts as a good state and a good run, in the terms claims use: the invariant of the reachable
states, the startup contract, event-level runs, polling schedules and the physical signal contract. -/

namespace Sys2Proof.Machine

/-- The invariant of the reachable states (10_state.md R30, R28): `TCNT` in its width, `DIVCNT` below `DIV`, `DATA` the
payload that belongs to `BIDX`. `BIDX` in 0 to 5 and `SLOT` in 0 to 9 hold by construction. -/
def State.Inv (s : State) : Prop :=
  s.tcnt < 2 ^ s.cfg.width ∧ s.divcnt < s.cfg.div ∧ s.data = payloadOf s.cfg s.bidx

/-- The startup contract as a state shows it: every channel enabled, the Tick Clock armed, both interrupt enables set
(30_encoding.md R66, 70_reset_and_hazards.md R167). -/
def State.contractMet (s : State) : Prop := s.ctl = 0x7FF

/-- The state just after an `ADV4` (42_sequencer.md R128): slot 0 of the cycle's first byte, the idle level on the
channels. -/
def State.atCycleStart (s : State) : Prop :=
  s.tcnt = 0 ∧ s.bidx = .b4 ∧ s.data = idByte s.cfg 3 ∧ s.out = 0xFF

/-- One event of an event-level run (00_scope.md R13): `RESET`, `STEP` and `CFGW` at any point, `TINC` where the Tick
Clock is armed and both enables are set (40_tick_clock.md R84). -/
def EventStep (i : Instr) (s t : State) : Prop :=
  (i = .reset ∨ i = .step ∨ (∃ v, i = .cfgw v) ∨ (i = .tinc ∧ s.ticksEnabled = true)) ∧ exec i s = .next t

/-- A finite event-level run: the listed events, performed one after another from `s`, lead to `u`. -/
def EventRun : List Instr → State → State → Prop
  | [], s, u => u = s
  | i :: rest, s, u => ∃ t, EventStep i s t ∧ EventRun rest t u

/-- The events of the clock edge at `s` that samples `p`, in their order: what the edge's event vector selects, without
the `DIVCLK` that causes ticks but is no event itself (00_scope.md R13, 43_system.md R138). -/
def State.eventsAt (p : Ports) (s : State) : List Instr :=
  (decodeEvents (s.eventVector p) p.cfgWdata).filter (· != .divclk)

/-- The events of the machine's first `n` edges from `s`, edge after edge. -/
def clockEvents : Nat → State → List Instr
  | 0, _ => []
  | n + 1, s =>
    s.eventsAt s.ports ++
      match step s with
      | .next t => clockEvents n t
      | _ => []

/-- An infinite event-level run: event `n` leads from state `n` to state `n + 1`. -/
def InfiniteRun (event : Nat → Instr) (state : Nat → State) : Prop :=
  ∀ n, EventStep (event n) (state n) (state (n + 1))

/-- Fairness of the ticks along an infinite run: if they stay enabled from some point on, they occur infinitely often
(40_tick_clock.md R84, 92_eei_decisions.md D19). -/
def Fair (enabled tick : Nat → Prop) : Prop :=
  (∃ m, ∀ n, m ≤ n → enabled n) → ∀ m, ∃ n, m ≤ n ∧ tick n

/-- A fair infinite event-level run: the one assumption of the event-level view (40_tick_clock.md R84). -/
def FairRun (event : Nat → Instr) (state : Nat → State) : Prop :=
  InfiniteRun event state ∧ Fair (fun n => (state n).ticksEnabled = true) (fun n => event n = .tinc)

/-- At least one poll in every tick slot of an infinite run: between any two ticks. The polling hazard asks for three
(70_reset_and_hazards.md R171), so every run that respects it meets this. -/
def PolledInEverySlot (event : Nat → Instr) : Prop :=
  ∀ a b, a < b → event a = .tinc → event b = .tinc → ∃ c, a < c ∧ c < b ∧ event c = .step

/-- The sequencer operations by which the `STEP`s of a run load a payload, in order, each with the byte it writes to
`DATA` (42_sequencer.md R118 to R122). -/
def payloadLoads : List Instr → State → List (Instr × Byte)
  | [], _ => []
  | i :: rest, s =>
    match exec i s with
    | .next t =>
      (match i, decodeSeq s.seqKey with
        | .step, .ok q => if q ∈ [.adv4, .adv3, .adv2, .adv1, .adv0] then [(q, t.data)] else []
        | _, _ => []) ++ payloadLoads rest t
    | _ => []

/-- The `k`-th payload load of a cycle: its operation and its byte (42_sequencer.md R127). -/
def cycleLoad (cfg : Config) : Nat → Instr × Byte
  | 0 => (.adv4, idByte cfg 3)
  | 1 => (.adv3, idByte cfg 2)
  | 2 => (.adv2, idByte cfg 1)
  | 3 => (.adv1, idByte cfg 0)
  | _ => (.adv0, 0x00)

/-- Which load of the cycle the sequencer makes next from a byte position. -/
def nextLoad : BytePos → Nat
  | .b5 => 0
  | .b4 => 1
  | .b3 => 2
  | .b2 => 3
  | .b1 => 4
  | .b0 => 0

/-- `n` whole tick slots, `polls i` polls in slot `i` and a tick at the end of each (30_encoding.md R74). -/
def fullSlots (polls : Nat → Nat) : Nat → List Instr
  | 0 => []
  | n + 1 => fullSlots polls n ++ List.replicate (polls n) .step ++ [.tinc]

/-- The run up to the last poll of tick slot `m`. -/
def throughSlot (polls : Nat → Nat) (m : Nat) : List Instr :=
  fullSlots polls m ++ List.replicate (polls m) .step

/-- The polling hazard is respected from just after an `ADV4` on: at least three polls in every tick slot
(70_reset_and_hazards.md R171). Two of the three of slot 0 were the `RESTART` and the `ADV4` before the start, so one is
left in it, the one that renders the start bit. -/
def PolledEnough (polls : Nat → Nat) : Prop := 1 ≤ polls 0 ∧ ∀ i, 1 ≤ i → 3 ≤ polls i

/-- The level of channel `c` in cycle slot `n`, `n < 5 * BYTE_TICKS + IDLE_TICKS` (70_reset_and_hazards.md R180). -/
def contractLevel (cfg : Config) (n c : Nat) : Bool :=
  let f := n / cfg.byteTicks
  let o := n % cfg.byteTicks
  if n < 5 * cfg.byteTicks ∧ o = 0 then false
  else if f ≤ 3 ∧ 1 ≤ o ∧ o ≤ 8 then (idByte cfg (3 - f)).getLsbD (o - 1)
  else if f = 4 ∧ 1 ≤ o ∧ o ≤ 8 then pattern cfg c (o - 1)
  else true

/-- The byte position in cycle slot `n` (42_sequencer.md R126). -/
def cycleByte (cfg : Config) (n : Nat) : BytePos :=
  match n / cfg.byteTicks with
  | 0 => .b4
  | 1 => .b3
  | 2 => .b2
  | 3 => .b1
  | _ => .b0

/-- The offset in cycle slot `n`: counted from the start of the byte, and through the idle pause from the start of the
identification byte (42_sequencer.md R126, R131). -/
def cycleOffset (cfg : Config) (n : Nat) : Nat :=
  if n < 4 * cfg.byteTicks then n % cfg.byteTicks else n - 4 * cfg.byteTicks

/-- The ports with only the poll strobe high (10_state.md R33). -/
def Ports.poll : Ports := { Ports.idle with step := true }

/-- The ports with only a configuration write of `v` (10_state.md R34). -/
def Ports.config (v : CtlWord) : Ports := { Ports.idle with cfgWe := true, cfgWdata := v }

/-- A configuration write, if there is one at this edge, keeps `ARM`, `TIE` and `GIE` at 1 (40_tick_clock.md R83). -/
def Ports.keepsTicks (p : Ports) : Prop :=
  p.cfgWe = true →
    p.cfgWdata.getLsbD 8 = true ∧ p.cfgWdata.getLsbD 9 = true ∧ p.cfgWdata.getLsbD 10 = true

/-- No strobe on the ports: an edge at which only the Tick Clock moves. -/
def Ports.quiet (p : Ports) : Prop := p.rst = false ∧ p.cfgWe = false ∧ p.step = false

end Sys2Proof.Machine
end

