-- ==== Sys2Proof/Certificates/Slice0/Obligations.lean ====
section
/-! DEFINITION. The statements about the engine, file by file of the spec. Every statement about every state holds for
every configuration, because the parameters are a field of the state. -/

open Sys2Proof Sys2Proof.Machine

/-! ### Registers, tables and pins (10_state.md, 20_memory.md) -/

/-- 10_state.md R37: what `RESET` and power-on leave in the six registers, in the machine's reset state and in that of
every instance. -/
def Obligations.ResetStateHoldsStatedValues : Prop :=
  (∀ c : Config, (State.resetOf c).tcnt = 0 ∧ (State.resetOf c).bidx = .b0 ∧ (State.resetOf c).data = 0x00 ∧
    (State.resetOf c).out = 0xFF ∧ (State.resetOf c).ctl = 0 ∧ (State.resetOf c).divcnt = 0) ∧
  State.reset.tcnt = 0 ∧ State.reset.bidx = .b0 ∧ State.reset.data = 0x00 ∧ State.reset.out = 0xFF ∧
    State.reset.ctl = 0 ∧ State.reset.divcnt = 0

/-- 20_memory.md R42: `IdByte(j)` is `(DEVID >> (8*j)) mod 256`. -/
def Obligations.IdByteIsByteOfDeviceIdentifier : Prop :=
  ∀ (cfg : Config) (j : Nat), j ≤ 3 → (idByte cfg j).toNat = cfg.devid.toNat / 2 ^ (8 * j) % 256

/-- 20_memory.md R44, R45: bit `c` of `Column(k)` is `Pattern(c, k)`, the bit `CIT[8*c + k]`. -/
def Obligations.ColumnCollectsOneBitOfEveryRow : Prop :=
  ∀ (cfg : Config) (c k : Nat), c < 8 → k < 8 →
    pattern cfg c k = cfg.cit.getLsbD (8 * c + k) ∧ (column cfg k).getLsbD c = pattern cfg c k

/-- 10_state.md R20: a pin carries `OUT[c]` when `CTL.OE[c] = 1`, all eight pins of a channel alike, and is not driven
otherwise. -/
def Obligations.PinsCarryOutWhereEnabled : Prop :=
  ∀ (s : State) (c p : Fin 8),
    (s.ctl.getLsbD c = true → s.out.getLsbD c = true → s.pin c p = .high) ∧
    (s.ctl.getLsbD c = true → s.out.getLsbD c = false → s.pin c p = .low) ∧
    (s.ctl.getLsbD c = false → s.pin c p = .z) ∧ ∀ q : Fin 8, s.pin c q = s.pin c p

/-- 10_state.md R35: an edge without `STEP`, `RESET` and `CFGW` changes no pin, whatever the Tick Clock does at it, and
neither does `TINC` itself. -/
def Obligations.TicksNeverMoveThePins : Prop :=
  (∀ s t : State, step s = .next t → s.ports.rst = false → s.ports.step = false → s.ports.cfgWe = false →
    ∀ c p : Fin 8, t.pin c p = s.pin c p) ∧
  (∀ s t : State, exec .tinc s = .next t → ∀ c p : Fin 8, t.pin c p = s.pin c p)

/-- 10_state.md R22: `CTL.OE` gates only the pins; a `STEP` writes `OUT` alike whatever `CTL` holds. -/
def Obligations.DisabledChannelsAreRenderedAlike : Prop :=
  ∀ (s : State) (v : CtlWord), ∃ t, exec .step s = .next t ∧
    exec .step { s with ctl := v } = .next { t with ctl := v }

/-- 10_state.md R21, R31: `CTL` belongs to the host: no operation but `CFGW` and `RESET` writes it. -/
def Obligations.OnlyHostOperationsWriteControl : Prop :=
  ∀ (i : Instr) (s t : State), exec i s = .next t → i ≠ .reset → (∀ v, i ≠ .cfgw v) → t.ctl = s.ctl

/-- 10_state.md R31, 43_system.md R139: `BIDX`, `DATA` and `OUT` belong to the polling loop: an edge with neither a
poll nor `RESET` leaves all three, whatever the host writes to `CTL` at it. -/
def Obligations.OnlyPollsMoveTheSequencer : Prop :=
  ∀ s t : State, step s = .next t → s.ports.rst = false → s.ports.step = false →
    t.bidx = s.bidx ∧ t.data = s.data ∧ t.out = s.out

/-- 10_state.md R29, 20_memory.md R55: no run of any length changes a parameter of the instance. -/
def Obligations.ParametersNeverChange : Prop :=
  ∀ (n : Nat) (s t : State), Sys2Proof.core.run n s = .next t → t.cfg = s.cfg

/-- 10_state.md R30 at reset: the invariant holds in the reset state of every instance whose timing is well-formed,
and in the machine's reset state. -/
def Obligations.InvariantHoldsAtReset : Prop :=
  (∀ c : Config, c.timingOk = true → (State.resetOf c).Inv) ∧ State.reset.Inv

/-- 10_state.md R30: every step from every state that meets the invariant, reachable or not, gives a state that meets
it. -/
def Obligations.EveryStepKeepsInvariant : Prop :=
  ∀ s t : State, s.Inv → step s = .next t → t.Inv

/-! ### Encodings (30_encoding.md) -/

/-- 30_encoding.md R65, R68, R69: decoding what `encode` writes gives the operation back, for every operation with
every operand; an event's vector selects, beside that event, the `DIVCLK` that every edge without `RESET` performs. -/
def Obligations.DecodeOfEncodeIsTheOperation : Prop :=
  ∀ i : Instr, decode (encode i) = .ok (match i with
    | .tinc => [.divclk, .tinc]
    | .step => [.step, .divclk]
    | .cfgw v => [.divclk, .cfgw v]
    | i => [i])

/-- 30_encoding.md R68, R69: no bit of a key is dropped: a render or sequencer key that selects an operation is the key
`encode` gives that operation. -/
def Obligations.EncodeOfDecodeIsTheKey : Prop :=
  (∀ (rk : RenderKey) (i : Instr), decodeRender rk = .ok i → encode i = .render rk) ∧
  (∀ (qk : SeqKey) (i : Instr), decodeSeq qk = .ok i → encode i = .seq qk)

/-- 30_encoding.md R70: exactly the keys with `SLOT` above 9 or `BIDX` above 5 are rejected, by name. -/
def Obligations.ReservedKeysAreRejectedByName : Prop :=
  (∀ rk : RenderKey, 9 < (rk.extractLsb' 0 4).toNat ↔ decodeRender rk = .error (.slot (rk.extractLsb' 0 4))) ∧
  (∀ qk : SeqKey, 5 < (qk.extractLsb' 1 3).toNat ↔ decodeSeq qk = .error (.bytePos (qk.extractLsb' 1 3)))

/-- 30_encoding.md R71: a key matches the fixed bits of the row of the operation it selects and of no other row of its
format. -/
def Obligations.EachKeyMatchesOneRow : Prop :=
  (∀ (rk rk' : RenderKey) (i j : Instr), decodeRender rk = .ok i → decodeRender rk' = .ok j →
    (rk.toNat &&& j.row.mask = j.row.pattern ↔ j.row = i.row)) ∧
  (∀ (qk qk' : SeqKey) (i j : Instr), decodeSeq qk = .ok i → decodeSeq qk' = .ok j →
    (qk.toNat &&& j.row.mask = j.row.pattern ↔ j.row = i.row))

/-- 30_encoding.md R64: a state's step word is `{BIDX, EXP, SLOT}` and carries both its keys. -/
def Obligations.StepWordCarriesBothKeys : Prop :=
  ∀ s : State, s.stepWord.extractLsb' 5 3 = posCode s.bidx ∧ s.stepWord.getLsbD 4 = s.exp ∧
    (s.stepWord.extractLsb' 0 4).toNat = min s.tcnt 9 ∧
    s.stepWord.seqKey = s.seqKey ∧ s.stepWord.renderKey = s.renderKey

/-- 30_encoding.md R65, 43_system.md R138: an event vector without `rst` selects each event once, in the order `STEP`,
`DIVCLK`, `TINC`, `CFGW`; with `rst` it selects `RESET` alone. -/
def Obligations.EventVectorSelectsInOrder : Prop :=
  ∀ (rst cfgWe poll tick : Bool) (v : CtlWord),
    decodeEvents (BitVec.ofBool rst ++ BitVec.ofBool cfgWe ++ BitVec.ofBool poll ++ BitVec.ofBool tick) v =
      if rst then [.reset]
      else (if poll then [Instr.step] else []) ++ [.divclk] ++ (if tick then [Instr.tinc] else []) ++
        (if cfgWe then [.cfgw v] else [])

/-- 30_encoding.md R65, R68, R69 and 95_test_vectors.md 2.5: words written out from the tables decode to the operations
they stand for. -/
def Obligations.WrittenOutWordsDecode : Prop :=
  decodeRender 0b10000 = .ok (.start true) ∧ decodeRender 0b00101 = .ok .dbit4 ∧
  decodeRender 0b10100 = .ok .mux3 ∧ decodeRender 0b01001 = .ok (.stop false) ∧
  decodeSeq 0b0110 = .ok (.holdLow 3) ∧ decodeSeq 0b1010 = .ok (.holdHigh true) ∧
  decodeSeq 0b1011 = .ok .adv4 ∧ decodeSeq 0b0011 = .ok .adv0 ∧ decodeSeq 0b0001 = .ok .restart ∧
  decodeStepWord 0x47 = .ok (.dbit6, .holdLow 2) ∧ decodeStepWord 0x79 = .ok (.stop false, .adv2) ∧
  decodeStepWord 0x08 = .ok (.mux7, .holdLow 0) ∧
  decodeEvents 0b0111 0x7FF = [.step, .divclk, .tinc, .cfgw 0x7FF] ∧ decodeEvents 0b1110 0x7FF = [.reset]

/-- The model's choice, log 10: where `withFetchWord` places a render key or a sequencer key that selects an operation,
the next edge polls and the state's own key is that key. -/
def Obligations.PlacedKeyIsTheKeySelected : Prop :=
  (∀ (s : State) (rk : RenderKey) (i : Instr), decodeRender rk = .ok i →
    (s.placeRender rk).renderKey = rk ∧ (s.placeRender rk).ports = Ports.poll) ∧
  (∀ (s : State) (qk : SeqKey) (i : Instr), s.cfg.timingOk = true → decodeSeq qk = .ok i →
    (s.placeSeq qk).seqKey = qk ∧ (s.placeSeq qk).ports = Ports.poll)

/-! ### Family T, the Tick Clock (40_tick_clock.md) -/

/-- 40_tick_clock.md R82: `TINC` adds one to `TCNT` modulo `2^W` and writes nothing else; the largest value wraps
to 0. -/
def Obligations.TincIncrementsModuloWidth : Prop :=
  ∀ s : State, exec .tinc s = .next { s with tcnt := (s.tcnt + 1) % 2 ^ s.cfg.width } ∧
    (s.tcnt = 2 ^ s.cfg.width - 1 → exec .tinc s = .next { s with tcnt := 0 })

/-- 40_tick_clock.md R81: `DIVCLK` holds the divider at 0 unarmed, reloads it at `DIV - 1` and expires, else counts up;
it writes nothing else, and `tick` is `expire and CTL.TIE and CTL.GIE`. Two clauses reach past the rule, by the model's
choice: at `DIV = 0`, which is ill-formed, the reload count is a free value (log 17), and a divider above the reload
count, which no run reaches, counts on without a wrap (log 6). -/
def Obligations.DivclkHoldsReloadsOrCounts : Prop :=
  ∀ s : State,
    (s.ctl.getLsbD 8 = false → exec .divclk s = .next { s with divcnt := 0 } ∧ s.expire = false) ∧
    (1 ≤ s.cfg.div → reloadOf s.cfg = s.cfg.div - 1) ∧
    (s.ctl.getLsbD 8 = true → s.divcnt = reloadOf s.cfg →
      exec .divclk s = .next { s with divcnt := 0 } ∧ s.expire = true) ∧
    (s.ctl.getLsbD 8 = true → s.divcnt ≠ reloadOf s.cfg →
      exec .divclk s = .next { s with divcnt := s.divcnt + 1 } ∧ s.expire = false) ∧
    s.tick = (s.expire && s.ctl.getLsbD 9 && s.ctl.getLsbD 10)

/-- 40_tick_clock.md R83: the edge of the `CFGW` that arms and enables the ticks leaves the divider at 0; and armed and
enabled, with the divider at 0, no `RESET` and no `CFGW` that clears one of the three bits at the next edges (one that
keeps them may fall at any), the tick falls at every `DIV`-th edge and at no other: after `n` edges the divider holds
`n mod DIV`, the next edge ticks exactly when `DIV` divides `n + 1`, and if none of the `n` edges polls, `TCNT` has
advanced by `n / DIV`. -/
def Obligations.TickFallsAtEveryDivEdges : Prop :=
  (∀ s : State, s.cfg.timingOk = true → s.arm = false → s.ports.rst = false → s.ports.cfgWe = true →
    s.ports.keepsTicks → ∃ t, step s = .next t ∧ t.divcnt = 0 ∧ t.ticksEnabled = true) ∧
  ∀ (n : Nat) (s : State), s.cfg.timingOk = true → s.arm = true → s.tie = true → s.gie = true → s.divcnt = 0 →
    (∀ p ∈ s.inputs.take (n + 1), p.rst = false) → (∀ p ∈ s.inputs.take n, p.keepsTicks) →
    ∃ t, Sys2Proof.core.run n s = .next t ∧ t.ticksEnabled = true ∧ t.divcnt = n % s.cfg.div ∧
      (s.cfg.div ∣ n + 1 ↔ (t.eventVector t.ports).getLsbD 0 = true) ∧
      ((∀ p ∈ s.inputs.take n, p.cfgWe = false) → t.ctl = s.ctl) ∧
      ((∀ p ∈ s.inputs.take n, p.step = false) → s.tcnt < 2 ^ s.cfg.width →
        t.tcnt = (s.tcnt + n / s.cfg.div) % 2 ^ s.cfg.width)

/-! ### Family R, the Frame Output Driver (41_render.md) -/

/-- 41_render.md R91: `START`, selected by `RK = x0000`, drives every channel LOW whatever `IDENT`, `DATA`, `CIT` and the
previous `OUT`, and writes nothing else; it is the first operation a `STEP` after `RESET` selects. -/
def Obligations.StartDrivesEveryChannelLow : Prop :=
  (∀ (ident : Bool) (s : State), decodeRender (BitVec.ofBool ident ++ 0b0000#4) = .ok (.start ident) ∧
    exec (.start ident) s = .next { s with out := 0x00 }) ∧
  ∀ c : Config, decodeRender (State.resetOf c).renderKey = .ok (.start true)

/-- 41_render.md R92 to R100: `DBITk`, selected by `IDENT = 0` and `SLOT = k + 1`, drives every channel to bit `k` of
`DATA` and writes nothing else. -/
def Obligations.DataBitOpsBroadcastOnePayloadBit : Prop :=
  (decodeRender 0b00001 = .ok .dbit0 ∧ decodeRender 0b00010 = .ok .dbit1 ∧ decodeRender 0b00011 = .ok .dbit2 ∧
    decodeRender 0b00100 = .ok .dbit3 ∧ decodeRender 0b00101 = .ok .dbit4 ∧ decodeRender 0b00110 = .ok .dbit5 ∧
    decodeRender 0b00111 = .ok .dbit6 ∧ decodeRender 0b01000 = .ok .dbit7) ∧
  ∀ s : State,
    exec .dbit0 s = .next { s with out := if s.data.getLsbD 0 then 0xFF else 0x00 } ∧
    exec .dbit1 s = .next { s with out := if s.data.getLsbD 1 then 0xFF else 0x00 } ∧
    exec .dbit2 s = .next { s with out := if s.data.getLsbD 2 then 0xFF else 0x00 } ∧
    exec .dbit3 s = .next { s with out := if s.data.getLsbD 3 then 0xFF else 0x00 } ∧
    exec .dbit4 s = .next { s with out := if s.data.getLsbD 4 then 0xFF else 0x00 } ∧
    exec .dbit5 s = .next { s with out := if s.data.getLsbD 5 then 0xFF else 0x00 } ∧
    exec .dbit6 s = .next { s with out := if s.data.getLsbD 6 then 0xFF else 0x00 } ∧
    exec .dbit7 s = .next { s with out := if s.data.getLsbD 7 then 0xFF else 0x00 }

/-- 41_render.md R101 to R109: `MUXk`, selected by `IDENT = 1` and `SLOT = k + 1`, drives channel `c` to
`CIT[8*c + k]` and writes nothing else; `DATA` is ignored. -/
def Obligations.MuxOpsSteerOneTableColumn : Prop :=
  (decodeRender 0b10001 = .ok .mux0 ∧ decodeRender 0b10010 = .ok .mux1 ∧ decodeRender 0b10011 = .ok .mux2 ∧
    decodeRender 0b10100 = .ok .mux3 ∧ decodeRender 0b10101 = .ok .mux4 ∧ decodeRender 0b10110 = .ok .mux5 ∧
    decodeRender 0b10111 = .ok .mux6 ∧ decodeRender 0b11000 = .ok .mux7) ∧
  ∀ s : State, ∃ o0 o1 o2 o3 o4 o5 o6 o7 : Byte,
    exec .mux0 s = .next { s with out := o0 } ∧ exec .mux1 s = .next { s with out := o1 } ∧
    exec .mux2 s = .next { s with out := o2 } ∧ exec .mux3 s = .next { s with out := o3 } ∧
    exec .mux4 s = .next { s with out := o4 } ∧ exec .mux5 s = .next { s with out := o5 } ∧
    exec .mux6 s = .next { s with out := o6 } ∧ exec .mux7 s = .next { s with out := o7 } ∧
    ∀ c : Nat, c < 8 →
      o0.getLsbD c = s.cfg.cit.getLsbD (8 * c + 0) ∧ o1.getLsbD c = s.cfg.cit.getLsbD (8 * c + 1) ∧
      o2.getLsbD c = s.cfg.cit.getLsbD (8 * c + 2) ∧ o3.getLsbD c = s.cfg.cit.getLsbD (8 * c + 3) ∧
      o4.getLsbD c = s.cfg.cit.getLsbD (8 * c + 4) ∧ o5.getLsbD c = s.cfg.cit.getLsbD (8 * c + 5) ∧
      o6.getLsbD c = s.cfg.cit.getLsbD (8 * c + 6) ∧ o7.getLsbD c = s.cfg.cit.getLsbD (8 * c + 7)

/-- 41_render.md R110: `STOP`, selected by `RK = x1001`, drives every channel HIGH whatever `IDENT`, `DATA` and `CIT`,
and writes nothing else. -/
def Obligations.StopDrivesEveryChannelHigh : Prop :=
  ∀ (ident : Bool) (s : State), decodeRender (BitVec.ofBool ident ++ 0b1001#4) = .ok (.stop ident) ∧
    exec (.stop ident) s = .next { s with out := 0xFF }

/-- 41_render.md R90, 30_encoding.md R68: for every byte position and every offset, `RENDER` performs exactly the
operation that `RK = {IDENT, min(offset, 9)}` selects. -/
def Obligations.RenderPerformsTheKeyedOperation : Prop :=
  ∀ (b : BytePos) (t : Nat) (s : State), ∃ r,
    decodeRender (BitVec.ofBool (decide (b = .b0)) ++ BitVec.ofNat 4 (min t 9)) = .ok r ∧ render b t s = exec r s

/-- 41_render.md R90: the level a `STEP` puts on each channel: LOW at offset 0; at offsets 1 to 8 the payload bit, or
the channel's own table bit when `BIDX = 0`; HIGH from offset 9 on. -/
def Obligations.StepLevelsByOffset : Prop :=
  ∀ s : State, ∃ t, exec .step s = .next t ∧ ∀ c : Nat, c < 8 →
    (s.tcnt = 0 → t.out.getLsbD c = false) ∧
    (∀ k, k < 8 → s.tcnt = k + 1 → s.bidx = .b0 → t.out.getLsbD c = s.cfg.cit.getLsbD (8 * c + k)) ∧
    (∀ k, k < 8 → s.tcnt = k + 1 → s.bidx ≠ .b0 → t.out.getLsbD c = s.data.getLsbD k) ∧
    (8 < s.tcnt → t.out.getLsbD c = true)

/-- 41_render.md R111: a `STEP` writes all eight bits of `OUT`, and nothing reads `OUT`: whatever `OUT` held, the state
after a `STEP` is the same. -/
def Obligations.StepOverwritesEveryChannel : Prop :=
  ∀ (s : State) (o : Byte), ∃ t, exec .step s = .next t ∧ exec .step { s with out := o } = .next t

/-- 41_render.md R113: while an ordinary byte is sent all channels agree, at every offset. -/
def Obligations.ChannelsAgreeOnOrdinaryBytes : Prop :=
  ∀ s : State, s.bidx ≠ .b0 → ∃ t, exec .step s = .next t ∧ (t.out = 0x00 ∨ t.out = 0xFF)

/-- 41_render.md R101, 10_state.md R18: while `BIDX = 0` the payload is ignored entirely: a `STEP` with another `DATA`
has the same effect. -/
def Obligations.IdentificationByteIgnoresPayload : Prop :=
  ∀ (s : State) (d : Byte), s.bidx = .b0 → ∃ t, exec .step s = .next t ∧ t.data = s.data ∧
    exec .step { s with data := d } = .next { t with data := d }

/-! ### Family Q, the Broadcast Sequencer (42_sequencer.md) -/

/-- 42_sequencer.md R117: `HOLD`, selected by exactly the keys of its two masks, writes nothing. -/
def Obligations.HoldWritesNothing : Prop :=
  (∀ qk : SeqKey, (qk &&& 0b1001 = 0b0000 ∨ qk &&& 0b1101 = 0b1000) ↔
    ((∃ pos, decodeSeq qk = .ok (.holdLow pos)) ∨ ∃ five, decodeSeq qk = .ok (.holdHigh five))) ∧
  ∀ (pos : BitVec 2) (five : Bool) (s : State),
    exec (.holdLow pos) s = .next s ∧ exec (.holdHigh five) s = .next s

/-- 42_sequencer.md R118 to R121: `ADV4` to `ADV1` begin an identifier byte: `BIDX` becomes the new position, `DATA`
the byte of `DEVID` that belongs to it, `TCNT` 0, and nothing else is written. -/
def Obligations.AdvanceBeginsIdentifierByte : Prop :=
  (decodeSeq 0b1011 = .ok .adv4 ∧ decodeSeq 0b1001 = .ok .adv3 ∧ decodeSeq 0b0111 = .ok .adv2 ∧
    decodeSeq 0b0101 = .ok .adv1) ∧
  ∀ s : State,
    exec .adv4 s = .next { s with bidx := .b4, data := s.cfg.devid.extractLsb' 24 8, tcnt := 0 } ∧
    exec .adv3 s = .next { s with bidx := .b3, data := s.cfg.devid.extractLsb' 16 8, tcnt := 0 } ∧
    exec .adv2 s = .next { s with bidx := .b2, data := s.cfg.devid.extractLsb' 8 8, tcnt := 0 } ∧
    exec .adv1 s = .next { s with bidx := .b1, data := s.cfg.devid.extractLsb' 0 8, tcnt := 0 }

/-- 42_sequencer.md R122: `ADV0` begins the identification byte: `BIDX`, `DATA` and `TCNT` become 0, and nothing else is
written. -/
def Obligations.Adv0BeginsIdentificationByte : Prop :=
  decodeSeq 0b0011 = .ok .adv0 ∧
  ∀ s : State, exec .adv0 s = .next { s with bidx := .b0, data := 0x00, tcnt := 0 }

/-- 42_sequencer.md R123: `RESTART` writes 5 to `BIDX` and nothing else: `TCNT` and `DATA` keep their values. -/
def Obligations.RestartWritesBytePositionOnly : Prop :=
  decodeSeq 0b0001 = .ok .restart ∧ ∀ s : State, exec .restart s = .next { s with bidx := .b5 }

/-- 42_sequencer.md R115, R116, 30_encoding.md R60: in every state both keys select an operation, and `STEP` is the
render operation and then the sequencer operation, both selected by the keys of the state at its start. -/
def Obligations.StepPerformsBothKeyedOperations : Prop :=
  ∀ s : State, ∃ r q u t, decodeStepWord s.stepWord = .ok (r, q) ∧ decodeRender s.renderKey = .ok r ∧
    decodeSeq s.seqKey = .ok q ∧ exec r s = .next u ∧ exec q u = .next t ∧ exec .step s = .next t

/-- 42_sequencer.md R116, R125: the sequencer's transitions, complete: below the threshold a `STEP` keeps `BIDX`, `DATA`
and `TCNT`; at the threshold it restarts from 0, or moves to the next byte down with its payload and `TCNT = 0`. It
never writes `CTL`, `DIVCNT` or a parameter. -/
def Obligations.StepMovesTheSequencerByThreshold : Prop :=
  ∀ s : State, ∃ t, exec .step s = .next t ∧ t.ctl = s.ctl ∧ t.divcnt = s.divcnt ∧ t.cfg = s.cfg ∧
    t.inputs = s.inputs ∧
    (s.bidx = .b0 → s.tcnt < s.cfg.byteTicks + s.cfg.idleTicks →
      t.bidx = s.bidx ∧ t.data = s.data ∧ t.tcnt = s.tcnt) ∧
    (s.bidx = .b0 → s.cfg.byteTicks + s.cfg.idleTicks ≤ s.tcnt →
      t.bidx = .b5 ∧ t.data = s.data ∧ t.tcnt = s.tcnt) ∧
    (s.bidx ≠ .b0 → s.tcnt < s.cfg.byteTicks → t.bidx = s.bidx ∧ t.data = s.data ∧ t.tcnt = s.tcnt) ∧
    (s.bidx ≠ .b0 → s.cfg.byteTicks ≤ s.tcnt →
      (posCode t.bidx).toNat + 1 = (posCode s.bidx).toNat ∧ t.data = payloadOf s.cfg t.bidx ∧ t.tcnt = 0)

/-- 42_sequencer.md R115: a poll with no tick since the previous one and `EXP = 0` repeats it and changes nothing. -/
def Obligations.RepeatedPollChangesNothing : Prop :=
  ∀ s : State, s.exp = false → ∃ t, exec .step s = .next t ∧ exec .step t = .next t

/-- 42_sequencer.md R127, in every run, no hazard respected: along any sequence of events without `RESET`, whatever the
polling, the payload loads are, in order and beginning where the sequencer stands in its cycle, `ADV4` with
`IdByte(3)`, `ADV3` with `IdByte(2)`, `ADV2` with `IdByte(1)`, `ADV1` with `IdByte(0)`, `ADV0` with `0x00`; and the four
bytes of each cycle, most significant first, are `DEVID`. -/
def Obligations.PayloadsConcatenateToDeviceIdentifier : Prop :=
  ∀ (events : List Instr) (s : State),
    (∀ i ∈ events, i = .step ∨ i = .tinc ∨ i = .divclk ∨ ∃ v, i = .cfgw v) →
    (∀ (k : Nat) (q : Instr) (d : Byte), (payloadLoads events s)[k]? = some (q, d) →
      (q, d) = cycleLoad s.cfg ((nextLoad s.bidx + k) % 5)) ∧
    ∀ (k : Nat) (d3 d2 d1 d0 z : Byte),
      ((payloadLoads events s).drop k).take 5 = [(.adv4, d3), (.adv3, d2), (.adv2, d1), (.adv1, d0), (.adv0, z)] →
      d3 ++ d2 ++ d1 ++ d0 = s.cfg.devid ∧ z = 0x00

/-- 42_sequencer.md R128: the poll that performs `ADV4` forgets everything about the cycle before: from any two states
of one instance at `BIDX = 5` with the threshold reached, equal in `CTL`, `DIVCNT` and coming inputs, it gives the same
state, that of a cycle start. -/
def Obligations.CycleStartForgetsThePast : Prop :=
  ∀ s s' : State, s.cfg.timingOk = true → s.bidx = .b5 → s'.bidx = .b5 →
    s.cfg.byteTicks ≤ s.tcnt → s.cfg.byteTicks ≤ s'.tcnt →
    s'.cfg = s.cfg → s'.ctl = s.ctl → s'.divcnt = s.divcnt → s'.inputs = s.inputs →
    ∃ t, exec .step s = .next t ∧ exec .step s' = .next t ∧ t.atCycleStart

/-- 42_sequencer.md R129: a late poll still advances: after any number of unpolled ticks that bring `TCNT` to or above
`BYTE_TICKS` without a wrap, one poll begins the next byte down. -/
def Obligations.LatePollStillAdvances : Prop :=
  ∀ (n : Nat) (s : State), s.bidx ≠ .b0 → s.cfg.byteTicks ≤ s.tcnt + n → s.tcnt + n < 2 ^ s.cfg.width →
    ∃ t, runOps (List.replicate n .tinc ++ [.step]) s = .next t ∧
      (posCode t.bidx).toNat + 1 = (posCode s.bidx).toNat ∧ t.data = payloadOf s.cfg t.bidx ∧ t.tcnt = 0

/-- 42_sequencer.md R126: the cycle law. From a cycle start of a well-formed instance, with polling that respects the
hazard, the last poll of tick slot `m` leaves the sequencer in the byte and at the offset that slot `m` of the cycle
has. -/
def Obligations.CycleLaw : Prop :=
  ∀ (s : State) (polls : Nat → Nat) (m : Nat), s.cfg.timingOk = true → s.contractMet → s.atCycleStart →
    PolledEnough polls →
    ∃ t, runOps (throughSlot polls m) s = .next t ∧
      t.bidx = cycleByte s.cfg (m % s.cfg.cycleTicks) ∧ t.tcnt = cycleOffset s.cfg (m % s.cfg.cycleTicks) ∧
      t.data = payloadOf s.cfg t.bidx

/-- 70_reset_and_hazards.md R166, 42_sequencer.md R126, R128: how a run comes to its first cycle start, and from each
cycle start to the next. From `BIDX` and `TCNT` 0 with the startup contract met, as `RESET` and `CFGW(0x7FF)` leave the
engine, whatever `DATA` and `OUT`: through the first `RESTART_TICKS` tick slots every pin shows a lone identification
frame and its idle pause (the levels of the cycle's last byte), and two polls after them the engine is at a cycle start,
the rest of the state unchanged. From a cycle start, `5 * BYTE_TICKS + IDLE_TICKS` ticks of polling that respects the
hazard and two more polls bring it back to the very state it started in. -/
def Obligations.CycleReturnsToItsStart : Prop :=
  (∀ (s : State) (polls : Nat → Nat), s.cfg.timingOk = true → s.contractMet → s.bidx = .b0 → s.tcnt = 0 →
    (∀ m, m < s.cfg.restartTicks → 1 ≤ polls m →
      ∃ t, runOps (throughSlot polls m) s = .next t ∧ t.bidx = .b0 ∧ t.tcnt = m ∧ ∀ c p : Fin 8,
        t.pin c p = if contractLevel s.cfg (4 * s.cfg.byteTicks + m) c then .high else .low) ∧
    ∃ t, runOps (fullSlots polls s.cfg.restartTicks ++ [.step, .step]) s = .next t ∧ t.atCycleStart ∧
      t = { s with bidx := .b4, data := idByte s.cfg 3, out := 0xFF }) ∧
  ∀ (s : State) (polls : Nat → Nat), s.cfg.timingOk = true → s.contractMet → s.atCycleStart → PolledEnough polls →
    runOps (fullSlots polls s.cfg.cycleTicks ++ [.step, .step]) s = .next s

/-! ### Family S and the clock edge (43_system.md) -/

/-- 43_system.md R135: `RESET` puts every register at its reset value, from any state. -/
def Obligations.ResetRestoresEveryRegister : Prop :=
  ∀ s : State, exec .reset s =
    .next { s with tcnt := 0, bidx := .b0, data := 0x00, out := 0xFF, ctl := 0, divcnt := 0 }

/-- 43_system.md R136: `CFGW v` writes all eleven bits of `CTL` and nothing else, for every `v`. -/
def Obligations.ConfigWriteSetsControlOnly : Prop :=
  ∀ (v : CtlWord) (s : State), exec (.cfgw v) s = .next { s with ctl := v }

/-- A step runs the decoded operations: in a well-formed instance one step is one clock edge, the operations its event
vector selects performed one after another in the order of 43_system.md R138, with this edge's port sample used up. -/
def Obligations.StepRunsTheDecodedEvents : Prop :=
  ∀ s : State, s.cfg.timingOk = true →
    step s = runOps (decodeEvents (s.eventVector s.ports) s.ports.cfgWdata) s.nextPorts

/-- 43_system.md R135, R138: at an edge with `rst` the machine performs `RESET` and nothing else: the other ports and
the divider are ignored. -/
def Obligations.ResetEdgeIgnoresEverythingElse : Prop :=
  ∀ s : State, s.cfg.timingOk = true → s.ports.rst = true →
    step s = .next { s.nextPorts with tcnt := 0, bidx := .b0, data := 0x00, out := 0xFF, ctl := 0, divcnt := 0 }

/-- 43_system.md R138(a) to (c): a poll and a tick on one edge: the poll sees the old `TCNT`; if it clears, `TCNT` becomes
1, and if it does not, the old value plus one. -/
def Obligations.PollAndTickOnOneEdge : Prop :=
  ∀ s : State, s.cfg.timingOk = true → s.ports.rst = false → s.ports.step = true → s.tick = true →
    ∃ u t, exec .step s = .next u ∧ step s = .next t ∧ t.bidx = u.bidx ∧ t.data = u.data ∧ t.out = u.out ∧
      (s.bidx ≠ .b0 → s.cfg.byteTicks ≤ s.tcnt → t.tcnt = 1) ∧
      (s.bidx = .b0 ∨ s.tcnt < s.cfg.byteTicks → t.tcnt = (s.tcnt + 1) % 2 ^ s.cfg.width)

/-- 43_system.md R138(d), (e): a `CFGW` acts after everything else of its edge: the edge with it is the edge without it
and then the write, so it neither causes nor suppresses the tick of its own edge. -/
def Obligations.ConfigWriteActsFromTheNextEdge : Prop :=
  ∀ (p : Ports) (v : CtlWord) (s : State), p.rst = false → ∃ t,
    clkEdge { p with cfgWe := false } s = .next t ∧
    clkEdge { p with cfgWe := true, cfgWdata := v } s = exec (.cfgw v) t

/-- 00_scope.md R13, 43_system.md R138: every clock-level run is an event-level run, of exactly the events its edges
carry, in their fixed order: the events that the event vectors of the first `n` edges select, each allowed at the event
level where it falls, lead from `s` to the machine's state, up to the divider's count and the port samples, which the
event level drops. -/
def Obligations.ClockRunsAreEventRuns : Prop :=
  ∀ (n : Nat) (s t : State), Sys2Proof.core.run n s = .next t →
    ∃ u, EventRun (clockEvents n s) s u ∧ t = { u with divcnt := t.divcnt, inputs := t.inputs }

/-! ### Exceptions and boundaries (60_exceptions.md) -/

/-- 60_exceptions.md R145, 42_sequencer.md R130: no operation faults, and in an instance with well-formed timing neither
does any run: after any number of edges the machine has a next state. -/
def Obligations.NothingEverFaults : Prop :=
  (∀ (i : Instr) (s : State), ∃ t, exec i s = .next t) ∧
  ∀ (n : Nat) (s : State), s.cfg.timingOk = true → ∃ t, Sys2Proof.core.run n s = .next t

/-- 00_scope.md R8, 93_implementation_defined.md U6: the machine refuses exactly the instances whose `DIV`, `BYTE_TICKS`
or `W` breaks a constraint of R6 (log 7: the table's conditions K1, K2 are not checked). -/
def Obligations.IllFormedTimingIsRefused : Prop :=
  ∀ s : State, step s = .refused .illFormedConfiguration ↔
    ¬ (1 ≤ s.cfg.div ∧ 10 ≤ s.cfg.byteTicks ∧ s.cfg.byteTicks + s.cfg.idleTicks < 2 ^ s.cfg.width)

/-- 60_exceptions.md R150: an expiry while `TIE and GIE` is 0 is lost. Over any number `n` of edges without a strobe,
with either enable clear, no tick is counted, while an armed divider counts on through its expiries. And none is counted
later: if the next edge sets all three enables, then after `k` more edges without a strobe `TCNT` has advanced by the
expiries of those `k` edges alone, the first of them where the divider, at `d` after the enabling edge, next expires. -/
def Obligations.MaskedExpiriesAreLost : Prop :=
  ∀ (n : Nat) (s : State), s.cfg.timingOk = true → (s.tie = false ∨ s.gie = false) →
    (∀ p ∈ s.inputs.take n, p.quiet) →
    (∃ t, Sys2Proof.core.run n s = .next t ∧ t.tcnt = s.tcnt ∧ t.ctl = s.ctl ∧ t.bidx = s.bidx ∧ t.out = s.out ∧
      (s.arm = true → s.divcnt < s.cfg.div → t.divcnt = (s.divcnt + n) % s.cfg.div)) ∧
    ∀ (k : Nat) (v : CtlWord), s.divcnt < s.cfg.div → s.tcnt < 2 ^ s.cfg.width →
      v.getLsbD 8 = true → v.getLsbD 9 = true → v.getLsbD 10 = true →
      s.inputs[n]? = some (Ports.config v) → (∀ p ∈ (s.inputs.drop (n + 1)).take k, p.quiet) →
      let d := if s.arm then (s.divcnt + n + 1) % s.cfg.div else 0
      ∃ u, Sys2Proof.core.run (n + 1 + k) s = .next u ∧ u.ctl = v ∧ u.divcnt = (d + k) % s.cfg.div ∧
        u.tcnt = (s.tcnt + (d + k) / s.cfg.div) % 2 ^ s.cfg.width

/-! ### Reset, hazards and the signal contract (70_reset_and_hazards.md) -/

/-- 70_reset_and_hazards.md R166, R169: until the host writes `CTL` after reset, through any number of polls and resets,
`TCNT` stays 0, every `STEP` has the step word `0x00` and every pin is undriven. -/
def Obligations.BeforeConfigurationNothingMoves : Prop :=
  ∀ (n : Nat) (s : State), s.cfg.timingOk = true → s.ctl = 0 → s.tcnt = 0 → s.bidx = .b0 → s.divcnt = 0 →
    (∀ p ∈ s.inputs.take n, p.cfgWe = false) →
    ∃ t, Sys2Proof.core.run n s = .next t ∧ t.tcnt = 0 ∧ t.bidx = .b0 ∧ t.ctl = 0 ∧ t.divcnt = 0 ∧
      t.stepWord = 0x00 ∧ (∃ u, exec .step t = .next u ∧ u.out = 0x00) ∧ ∀ c p : Fin 8, t.pin c p = .z

/-- 70_reset_and_hazards.md R171: in the slot in which `TCNT` reaches `RESTART_TICKS` the first poll restarts, the
second begins the first byte, and the third renders its start bit. -/
def Obligations.ThirdPollRendersTheStartBit : Prop :=
  ∀ s : State, s.cfg.timingOk = true → s.bidx = .b0 → s.tcnt = s.cfg.restartTicks →
    exec .step s = .next { s with bidx := .b5, out := 0xFF } ∧
    runOps [.step, .step] s = .next { s with bidx := .b4, data := idByte s.cfg 3, tcnt := 0, out := 0xFF } ∧
    runOps [.step, .step, .step] s = .next { s with bidx := .b4, data := idByte s.cfg 3, tcnt := 0, out := 0x00 }

/-- 70_reset_and_hazards.md R173: with `2^W <= RESTART_TICKS` the threshold is never reached and the engine stays at
`BIDX = 0` for ever, whatever the polls and ticks. -/
def Obligations.NarrowCounterNeverRestarts : Prop :=
  ∀ (events : List Instr) (s : State), (∀ i ∈ events, i = .step ∨ i = .tinc) →
    2 ^ s.cfg.width ≤ s.cfg.restartTicks → s.bidx = .b0 → s.tcnt < 2 ^ s.cfg.width →
    ∃ t, runOps events s = .next t ∧ t.bidx = .b0 ∧ t.data = s.data

/-- 70_reset_and_hazards.md R180: the physical signal contract. From a cycle start of a well-formed instance whose
startup contract is met, with polling that respects the hazard, after the last poll of tick slot `m` every pin of
channel `c` shows the level that slot `m mod (5 * BYTE_TICKS + IDLE_TICKS)` of the cycle has for that channel. -/
def Obligations.PhysicalSignalContract : Prop :=
  ∀ (s : State) (polls : Nat → Nat) (m : Nat), s.cfg.timingOk = true → s.contractMet → s.atCycleStart →
    PolledEnough polls →
    ∃ t, runOps (throughSlot polls m) s = .next t ∧ ∀ c p : Fin 8,
      t.pin c p = if contractLevel s.cfg (m % s.cfg.cycleTicks) c then .high else .low

/-- 42_sequencer.md R126, 70_reset_and_hazards.md R171, R177 at clock level: with `step` held at 1 and `DIV >= 3`, the
machine started at a cycle start two edges into its tick slot is back in the same state after exactly
`DIV * (5 * BYTE_TICKS + IDLE_TICKS)` edges. -/
def Obligations.ClockLevelCycleIsExact : Prop :=
  ∀ (s : State) (rest : List Ports), s.cfg.timingOk = true → 3 ≤ s.cfg.div → s.contractMet → s.atCycleStart →
    s.divcnt = 2 → s.inputs = List.replicate (s.cfg.div * s.cfg.cycleTicks) Ports.poll ++ rest →
    Sys2Proof.core.run (s.cfg.div * s.cfg.cycleTicks) s = .next { s with inputs := rest }

/-! ### Fairness (40_tick_clock.md R84) -/

/-- 40_tick_clock.md R84, R83: the clock level keeps the fairness the event level assumes. Along every infinite run of
clock edges, under any infinite schedule of the ports (a poll at every edge among them), whose divider starts below
`DIV`: if `ARM`, `TIE` and `GIE` are 1 for `DIV` edges, one of these edges carries a `TINC`, whatever the polls and the
configuration writes; so if the three stay 1 from some edge on, `TINC` occurs infinitely often. And the bound for the
machine's own run, which takes the schedule from its listed samples. -/
def Obligations.ClockRunsAreFair : Prop :=
  (∀ (ports : Nat → Ports) (state : Nat → State), (∀ n, clkEdge (ports n) (state n) = .next (state (n + 1))) →
    (state 0).divcnt < (state 0).cfg.div →
    (∀ a, (∀ n, a ≤ n → n ≤ a + (state 0).cfg.div → (state n).ticksEnabled = true) →
      ∃ n, a ≤ n ∧ n < a + (state 0).cfg.div ∧ Instr.tinc ∈ (state n).eventsAt (ports n)) ∧
    Fair (fun n => (state n).ticksEnabled = true) (fun n => Instr.tinc ∈ (state n).eventsAt (ports n))) ∧
  ∀ s : State, s.cfg.timingOk = true → s.divcnt < s.cfg.div →
    (∀ n, n ≤ s.cfg.div → ∃ t, Sys2Proof.core.run n s = .next t ∧ t.ticksEnabled = true) →
    ∃ n t, n < s.cfg.div ∧ Sys2Proof.core.run n s = .next t ∧ Instr.tinc ∈ t.eventsAt t.ports

/-- 40_tick_clock.md R84, 42_sequencer.md R128: at the event level fairness is all the progress of the beacon rests on:
in every fair infinite run of an instance with well-formed timing in which `ARM`, `TIE` and `GIE` stay 1 from some point
on and every tick slot is polled, the engine is at a cycle start infinitely often. -/
def Obligations.FairRunsStartCyclesForever : Prop :=
  ∀ (event : Nat → Instr) (state : Nat → State), FairRun event state → (state 0).cfg.timingOk = true →
    (∃ m, ∀ n, m ≤ n → (state n).ticksEnabled = true) → PolledInEverySlot event →
    ∀ m, ∃ n, m ≤ n ∧ (state n).atCycleStart
end

