-- ==== Sys2Proof/Laws/State.lean ====
section
/-! SUPPORT. One lemma per field per named write: what the write leaves in that field. And what the derived values of
Flags.lean are. -/

namespace Sys2Proof.Machine

/-- `DIV - 1` in every instance with `DIV >= 1`; only at `DIV = 0` is the reload count free (log 17). -/
@[simp] theorem reloadOf_of_pos {c : Config} (h : 1 ≤ c.div) : reloadOf c = c.div - 1 := by
  unfold reloadOf
  split <;> omega

theorem State.ticksEnabled_iff (s : State) :
    s.ticksEnabled = true ↔ s.arm = true ∧ s.tie = true ∧ s.gie = true := by
  simp [State.ticksEnabled, and_assoc]

@[simp] theorem State.driveAll_cfg (s : State) (level : Bool) : (s.driveAll level).cfg = s.cfg := rfl
@[simp] theorem State.driveAll_inputs (s : State) (level : Bool) : (s.driveAll level).inputs = s.inputs := rfl
@[simp] theorem State.driveAll_tcnt (s : State) (level : Bool) : (s.driveAll level).tcnt = s.tcnt := rfl
@[simp] theorem State.driveAll_bidx (s : State) (level : Bool) : (s.driveAll level).bidx = s.bidx := rfl
@[simp] theorem State.driveAll_data (s : State) (level : Bool) : (s.driveAll level).data = s.data := rfl
@[simp] theorem State.driveAll_out (s : State) (level : Bool) : (s.driveAll level).out = rep8 level := rfl
@[simp] theorem State.driveAll_ctl (s : State) (level : Bool) : (s.driveAll level).ctl = s.ctl := rfl
@[simp] theorem State.driveAll_divcnt (s : State) (level : Bool) : (s.driveAll level).divcnt = s.divcnt := rfl

@[simp] theorem State.drivePayloadBit_cfg (s : State) (k : Nat) : (s.drivePayloadBit k).cfg = s.cfg := rfl
@[simp] theorem State.drivePayloadBit_inputs (s : State) (k : Nat) : (s.drivePayloadBit k).inputs = s.inputs := rfl
@[simp] theorem State.drivePayloadBit_tcnt (s : State) (k : Nat) : (s.drivePayloadBit k).tcnt = s.tcnt := rfl
@[simp] theorem State.drivePayloadBit_bidx (s : State) (k : Nat) : (s.drivePayloadBit k).bidx = s.bidx := rfl
@[simp] theorem State.drivePayloadBit_data (s : State) (k : Nat) : (s.drivePayloadBit k).data = s.data := rfl
@[simp] theorem State.drivePayloadBit_out (s : State) (k : Nat) : (s.drivePayloadBit k).out = rep8 (s.data.getLsbD k) := rfl
@[simp] theorem State.drivePayloadBit_ctl (s : State) (k : Nat) : (s.drivePayloadBit k).ctl = s.ctl := rfl
@[simp] theorem State.drivePayloadBit_divcnt (s : State) (k : Nat) : (s.drivePayloadBit k).divcnt = s.divcnt := rfl

@[simp] theorem State.driveColumn_cfg (s : State) (k : Nat) : (s.driveColumn k).cfg = s.cfg := rfl
@[simp] theorem State.driveColumn_inputs (s : State) (k : Nat) : (s.driveColumn k).inputs = s.inputs := rfl
@[simp] theorem State.driveColumn_tcnt (s : State) (k : Nat) : (s.driveColumn k).tcnt = s.tcnt := rfl
@[simp] theorem State.driveColumn_bidx (s : State) (k : Nat) : (s.driveColumn k).bidx = s.bidx := rfl
@[simp] theorem State.driveColumn_data (s : State) (k : Nat) : (s.driveColumn k).data = s.data := rfl
@[simp] theorem State.driveColumn_out (s : State) (k : Nat) : (s.driveColumn k).out = column s.cfg k := rfl
@[simp] theorem State.driveColumn_ctl (s : State) (k : Nat) : (s.driveColumn k).ctl = s.ctl := rfl
@[simp] theorem State.driveColumn_divcnt (s : State) (k : Nat) : (s.driveColumn k).divcnt = s.divcnt := rfl

@[simp] theorem State.beginByte_cfg (s : State) (n : BytePos) (d : Byte) : (s.beginByte n d).cfg = s.cfg := rfl
@[simp] theorem State.beginByte_inputs (s : State) (n : BytePos) (d : Byte) : (s.beginByte n d).inputs = s.inputs := rfl
@[simp] theorem State.beginByte_tcnt (s : State) (n : BytePos) (d : Byte) : (s.beginByte n d).tcnt = 0 := rfl
@[simp] theorem State.beginByte_bidx (s : State) (n : BytePos) (d : Byte) : (s.beginByte n d).bidx = n := rfl
@[simp] theorem State.beginByte_data (s : State) (n : BytePos) (d : Byte) : (s.beginByte n d).data = d := rfl
@[simp] theorem State.beginByte_out (s : State) (n : BytePos) (d : Byte) : (s.beginByte n d).out = s.out := rfl
@[simp] theorem State.beginByte_ctl (s : State) (n : BytePos) (d : Byte) : (s.beginByte n d).ctl = s.ctl := rfl
@[simp] theorem State.beginByte_divcnt (s : State) (n : BytePos) (d : Byte) : (s.beginByte n d).divcnt = s.divcnt := rfl

@[simp] theorem State.restartCycle_cfg (s : State) : s.restartCycle.cfg = s.cfg := rfl
@[simp] theorem State.restartCycle_inputs (s : State) : s.restartCycle.inputs = s.inputs := rfl
@[simp] theorem State.restartCycle_tcnt (s : State) : s.restartCycle.tcnt = s.tcnt := rfl
@[simp] theorem State.restartCycle_bidx (s : State) : s.restartCycle.bidx = .b5 := rfl
@[simp] theorem State.restartCycle_data (s : State) : s.restartCycle.data = s.data := rfl
@[simp] theorem State.restartCycle_out (s : State) : s.restartCycle.out = s.out := rfl
@[simp] theorem State.restartCycle_ctl (s : State) : s.restartCycle.ctl = s.ctl := rfl
@[simp] theorem State.restartCycle_divcnt (s : State) : s.restartCycle.divcnt = s.divcnt := rfl

@[simp] theorem State.takeTick_cfg (s : State) : s.takeTick.cfg = s.cfg := rfl
@[simp] theorem State.takeTick_inputs (s : State) : s.takeTick.inputs = s.inputs := rfl
@[simp] theorem State.takeTick_tcnt (s : State) : s.takeTick.tcnt = (s.tcnt + 1) % 2 ^ s.cfg.width := rfl
@[simp] theorem State.takeTick_bidx (s : State) : s.takeTick.bidx = s.bidx := rfl
@[simp] theorem State.takeTick_data (s : State) : s.takeTick.data = s.data := rfl
@[simp] theorem State.takeTick_out (s : State) : s.takeTick.out = s.out := rfl
@[simp] theorem State.takeTick_ctl (s : State) : s.takeTick.ctl = s.ctl := rfl
@[simp] theorem State.takeTick_divcnt (s : State) : s.takeTick.divcnt = s.divcnt := rfl

@[simp] theorem State.advanceDivider_cfg (s : State) : s.advanceDivider.cfg = s.cfg := rfl
@[simp] theorem State.advanceDivider_inputs (s : State) : s.advanceDivider.inputs = s.inputs := rfl
@[simp] theorem State.advanceDivider_tcnt (s : State) : s.advanceDivider.tcnt = s.tcnt := rfl
@[simp] theorem State.advanceDivider_bidx (s : State) : s.advanceDivider.bidx = s.bidx := rfl
@[simp] theorem State.advanceDivider_data (s : State) : s.advanceDivider.data = s.data := rfl
@[simp] theorem State.advanceDivider_out (s : State) : s.advanceDivider.out = s.out := rfl
@[simp] theorem State.advanceDivider_ctl (s : State) : s.advanceDivider.ctl = s.ctl := rfl
@[simp] theorem State.advanceDivider_divcnt (s : State) : s.advanceDivider.divcnt = if s.arm then (if s.divcnt == reloadOf s.cfg then 0 else s.divcnt + 1) else 0 := rfl

@[simp] theorem State.writeCtl_cfg (s : State) (v : CtlWord) : (s.writeCtl v).cfg = s.cfg := rfl
@[simp] theorem State.writeCtl_inputs (s : State) (v : CtlWord) : (s.writeCtl v).inputs = s.inputs := rfl
@[simp] theorem State.writeCtl_tcnt (s : State) (v : CtlWord) : (s.writeCtl v).tcnt = s.tcnt := rfl
@[simp] theorem State.writeCtl_bidx (s : State) (v : CtlWord) : (s.writeCtl v).bidx = s.bidx := rfl
@[simp] theorem State.writeCtl_data (s : State) (v : CtlWord) : (s.writeCtl v).data = s.data := rfl
@[simp] theorem State.writeCtl_out (s : State) (v : CtlWord) : (s.writeCtl v).out = s.out := rfl
@[simp] theorem State.writeCtl_ctl (s : State) (v : CtlWord) : (s.writeCtl v).ctl = v := rfl
@[simp] theorem State.writeCtl_divcnt (s : State) (v : CtlWord) : (s.writeCtl v).divcnt = s.divcnt := rfl

@[simp] theorem State.resetRegisters_cfg (s : State) : s.resetRegisters.cfg = s.cfg := rfl
@[simp] theorem State.resetRegisters_inputs (s : State) : s.resetRegisters.inputs = s.inputs := rfl
@[simp] theorem State.resetRegisters_tcnt (s : State) : s.resetRegisters.tcnt = 0 := rfl
@[simp] theorem State.resetRegisters_bidx (s : State) : s.resetRegisters.bidx = .b0 := rfl
@[simp] theorem State.resetRegisters_data (s : State) : s.resetRegisters.data = 0x00 := rfl
@[simp] theorem State.resetRegisters_out (s : State) : s.resetRegisters.out = 0xFF := rfl
@[simp] theorem State.resetRegisters_ctl (s : State) : s.resetRegisters.ctl = 0 := rfl
@[simp] theorem State.resetRegisters_divcnt (s : State) : s.resetRegisters.divcnt = 0 := rfl

@[simp] theorem State.nextPorts_cfg (s : State) : s.nextPorts.cfg = s.cfg := rfl
@[simp] theorem State.nextPorts_inputs (s : State) : s.nextPorts.inputs = s.inputs.tail := rfl
@[simp] theorem State.nextPorts_tcnt (s : State) : s.nextPorts.tcnt = s.tcnt := rfl
@[simp] theorem State.nextPorts_bidx (s : State) : s.nextPorts.bidx = s.bidx := rfl
@[simp] theorem State.nextPorts_data (s : State) : s.nextPorts.data = s.data := rfl
@[simp] theorem State.nextPorts_out (s : State) : s.nextPorts.out = s.out := rfl
@[simp] theorem State.nextPorts_ctl (s : State) : s.nextPorts.ctl = s.ctl := rfl
@[simp] theorem State.nextPorts_divcnt (s : State) : s.nextPorts.divcnt = s.divcnt := rfl

@[simp] theorem State.pushPorts_cfg (s : State) (p : Ports) : (s.pushPorts p).cfg = s.cfg := rfl
@[simp] theorem State.pushPorts_inputs (s : State) (p : Ports) : (s.pushPorts p).inputs = p :: s.inputs := rfl
@[simp] theorem State.pushPorts_tcnt (s : State) (p : Ports) : (s.pushPorts p).tcnt = s.tcnt := rfl
@[simp] theorem State.pushPorts_bidx (s : State) (p : Ports) : (s.pushPorts p).bidx = s.bidx := rfl
@[simp] theorem State.pushPorts_data (s : State) (p : Ports) : (s.pushPorts p).data = s.data := rfl
@[simp] theorem State.pushPorts_out (s : State) (p : Ports) : (s.pushPorts p).out = s.out := rfl
@[simp] theorem State.pushPorts_ctl (s : State) (p : Ports) : (s.pushPorts p).ctl = s.ctl := rfl
@[simp] theorem State.pushPorts_divcnt (s : State) (p : Ports) : (s.pushPorts p).divcnt = s.divcnt := rfl

@[simp] theorem State.placeAt_cfg (s : State) (b : BytePos) (t : Nat) : (s.placeAt b t).cfg = s.cfg := rfl
@[simp] theorem State.placeAt_inputs (s : State) (b : BytePos) (t : Nat) : (s.placeAt b t).inputs = s.inputs := rfl
@[simp] theorem State.placeAt_tcnt (s : State) (b : BytePos) (t : Nat) : (s.placeAt b t).tcnt = t := rfl
@[simp] theorem State.placeAt_bidx (s : State) (b : BytePos) (t : Nat) : (s.placeAt b t).bidx = b := rfl
@[simp] theorem State.placeAt_data (s : State) (b : BytePos) (t : Nat) : (s.placeAt b t).data = payloadOf s.cfg b := rfl
@[simp] theorem State.placeAt_out (s : State) (b : BytePos) (t : Nat) : (s.placeAt b t).out = s.out := rfl
@[simp] theorem State.placeAt_ctl (s : State) (b : BytePos) (t : Nat) : (s.placeAt b t).ctl = s.ctl := rfl
@[simp] theorem State.placeAt_divcnt (s : State) (b : BytePos) (t : Nat) : (s.placeAt b t).divcnt = s.divcnt := rfl

@[simp] theorem State.withTestTiming_inputs (s : State) : s.withTestTiming.inputs = s.inputs := rfl
@[simp] theorem State.withTestTiming_tcnt (s : State) : s.withTestTiming.tcnt = s.tcnt := rfl
@[simp] theorem State.withTestTiming_bidx (s : State) : s.withTestTiming.bidx = s.bidx := rfl
@[simp] theorem State.withTestTiming_data (s : State) : s.withTestTiming.data = s.data := rfl
@[simp] theorem State.withTestTiming_out (s : State) : s.withTestTiming.out = s.out := rfl
@[simp] theorem State.withTestTiming_ctl (s : State) : s.withTestTiming.ctl = s.ctl := rfl
@[simp] theorem State.withTestTiming_divcnt (s : State) : s.withTestTiming.divcnt = s.divcnt := rfl

end Sys2Proof.Machine
end

