-- ==== Sys2Proof/Laws/Ops.lean ====
section
/-! SUPPORT. For each shared operation, one lemma that says once everything it can do. -/

namespace Sys2Proof.Machine

@[simp] theorem andThen_next (s : State) (f : State → Host.Outcome State Fault Refusal) :
    andThen (.next s) f = f s := rfl

/-- A sequence answers a next state exactly when both parts do. -/
theorem andThen_eq_next {o : Host.Outcome State Fault Refusal} {f : State → Host.Outcome State Fault Refusal}
    {t : State} : andThen o f = .next t ↔ ∃ s, o = .next s ∧ f s = .next t := by
  cases o <;> simp [andThen]

theorem rep8_getLsbD (b : Bool) {c : Nat} (hc : c < 8) : (rep8 b).getLsbD c = b := by
  cases b
  · simp [rep8]
  · rcases c with _ | _ | _ | _ | _ | _ | _ | _ | c <;> first | rfl | omega

theorem column_getLsbD (cfg : Config) (k : Nat) {c : Nat} (hc : c < 8) :
    (column cfg k).getLsbD c = pattern cfg c k := by
  have h : (column cfg k).getLsbD c =
      [pattern cfg 0 k, pattern cfg 1 k, pattern cfg 2 k, pattern cfg 3 k, pattern cfg 4 k, pattern cfg 5 k,
        pattern cfg 6 k, pattern cfg 7 k].getD c false := BitVec.getLsbD_ofBoolListLE
  rw [h]
  rcases c with _ | _ | _ | _ | _ | _ | _ | _ | c <;> first | rfl | omega

theorem identOf_iff (b : BytePos) : identOf b = true ↔ b = .b0 := by cases b <;> simp [identOf]

/-- `RENDER` always answers, and changes nothing but `OUT`. -/
theorem render_total (b : BytePos) (t : Nat) (s : State) : ∃ o, render b t s = .next { s with out := o } := by
  unfold render
  split <;> exact ⟨_, rfl⟩

/-- What `RENDER` puts on channel `c`, by offset. -/
theorem render_level {b : BytePos} {t : Nat} {s s' : State} (h : render b t s = .next s') {c : Nat} (hc : c < 8) :
    s'.out.getLsbD c =
      if t = 0 then false
      else if t ≤ 8 then (if identOf b then pattern s.cfg c (t - 1) else s.data.getLsbD (t - 1))
      else true := by
  rcases t with _ | _ | _ | _ | _ | _ | _ | _ | _ | t <;> cases hi : identOf b <;>
    simp only [render, hi] at h <;> cases h <;>
    simp [-BitVec.getLsbD_eq_getElem, State.drivePayloadBit, rep8_getLsbD _ hc, column_getLsbD _ _ hc]

/-- `SEQ` always answers, and changes nothing but `BIDX`, `DATA` and `TCNT`. -/
theorem seq_total (b : BytePos) (t : Nat) (s : State) :
    ∃ b' d' t', seq b t s = .next { s with bidx := b', data := d', tcnt := t' } := by
  cases b <;> simp only [seq] <;> split <;> exact ⟨_, _, _, rfl⟩

/-- `SEQ` below the threshold holds. -/
theorem seq_hold {b : BytePos} {t : Nat} (s : State) (h : expOf s.cfg b t = false) : seq b t s = .next s := by
  cases b <;> simp [expOf, thresholdOf, identOf] at h <;> simp [seq, Nat.not_le.mpr h, execHoldLow, execHoldHigh]

/-- `SEQ` with the threshold reached at the end of the idle pause restarts the cycle. -/
theorem seq_restart {t : Nat} (s : State) (h : s.cfg.restartTicks ≤ t) : seq .b0 t s = .next s.restartCycle := by
  simp [seq, h, execRestart]

/-- `SEQ` with the threshold reached in a sending state begins the next byte with its payload. -/
theorem seq_advance {b : BytePos} {t : Nat} (s : State) (hb : b ≠ .b0) (h : s.cfg.byteTicks ≤ t) :
    ∃ n, posCode n = posCode b - 1 ∧ seq b t s = .next (s.beginByte n (payloadOf s.cfg n)) := by
  cases b
  case b0 => exact absurd rfl hb
  case b1 => exact ⟨.b0, by decide, by simp [seq, h, execAdv0, payloadOf]⟩
  case b2 => exact ⟨.b1, by decide, by simp [seq, h, execAdv1, payloadOf]⟩
  case b3 => exact ⟨.b2, by decide, by simp [seq, h, execAdv2, payloadOf]⟩
  case b4 => exact ⟨.b3, by decide, by simp [seq, h, execAdv3, payloadOf]⟩
  case b5 => exact ⟨.b4, by decide, by simp [seq, h, execAdv4, payloadOf]⟩

/-- `STEP` always answers, and changes nothing but `OUT`, `BIDX`, `DATA` and `TCNT`. -/
theorem execStep_total (s : State) :
    ∃ o b d t, execStep s = .next { s with out := o, bidx := b, data := d, tcnt := t } := by
  obtain ⟨o, ho⟩ := render_total s.bidx s.tcnt s
  obtain ⟨b, d, t, hs⟩ := seq_total s.bidx s.tcnt { s with out := o }
  exact ⟨o, b, d, t, by simp [execStep, ho, hs]⟩

/-- One clock edge without `rst`, as what each event leaves. -/
theorem clkEdge_run {p : Ports} (hr : p.rst = false) (s : State) :
    ∃ s1, (if p.step then execStep s else .next s) = .next s1 ∧
      clkEdge p s = .next
        (let s2 := s1.advanceDivider
         let s3 := if s.tick then s2.takeTick else s2
         if p.cfgWe then s3.writeCtl p.cfgWdata else s3) := by
  have h1 : ∃ s1, (if p.step then execStep s else .next s) = .next s1 := by
    split
    · obtain ⟨o, b, d, t, h⟩ := execStep_total s
      exact ⟨_, h⟩
    · exact ⟨_, rfl⟩
  obtain ⟨s1, h1⟩ := h1
  refine ⟨s1, h1, ?_⟩
  simp only [clkEdge, hr, Bool.false_eq_true, if_false, h1, andThen_next, execDivclk]
  split <;> simp only [andThen_next, execTinc] <;> split <;> simp_all [execCfgw]

/-- What every clock edge without `rst` leaves of the fields that no poll and no tick writes. -/
theorem clkEdge_frame {p : Ports} (hr : p.rst = false) (s : State) :
    ∃ t, clkEdge p s = .next t ∧ t.cfg = s.cfg ∧ t.inputs = s.inputs ∧
      t.ctl = (if p.cfgWe then p.cfgWdata else s.ctl) ∧ t.divcnt = s.advanceDivider.divcnt := by
  obtain ⟨s1, h1, h2⟩ := clkEdge_run hr s
  refine ⟨_, h2, ?_⟩
  have h3 : ∃ o b d t, s1 = { s with out := o, bidx := b, data := d, tcnt := t } := by
    split at h1
    · obtain ⟨o, b, d, t, e⟩ := execStep_total s
      rw [e] at h1
      cases h1
      exact ⟨o, b, d, t, rfl⟩
    · cases h1
      exact ⟨_, _, _, _, rfl⟩
  obtain ⟨o, b, d, t, rfl⟩ := h3
  dsimp only
  split <;> split <;> exact ⟨rfl, rfl, rfl, rfl⟩

/-- A clock edge with `rst` is `RESET` alone. -/
theorem clkEdge_reset {p : Ports} (hr : p.rst = true) (s : State) : clkEdge p s = .next s.resetRegisters := by
  simp only [clkEdge, hr, if_true, execReset]

end Sys2Proof.Machine
end

