-- ==== Sys2Proof/Laws/PerInstr.lean ====
section
/-! SUPPORT. Laws stated for every operation, one lemma per constructor. -/

namespace Sys2Proof.Laws.EncodesToRow

/-- The key the encoder gives an operation is well-formed and has the fixed bits of the operation's row of
spec/opcode_table.json. -/
def Statement (i : Instr) : Prop :=
  (encode i).wellFormed = true ∧ (encode i).bits &&& i.row.mask = i.row.pattern

theorem reset : Statement .reset := ⟨by decide, by decide⟩
theorem divclk : Statement .divclk := ⟨by decide, by decide⟩
theorem tinc : Statement .tinc := ⟨by decide, by decide⟩
theorem step : Statement .step := ⟨by decide, by decide⟩
theorem cfgw (v : CtlWord) : Statement (.cfgw v) := ⟨rfl, by simp only [encode, Key.bits, Instr.row]; decide⟩
theorem start (ident : Bool) : Statement (.start ident) := by cases ident <;> exact ⟨by decide, by decide⟩
theorem dbit0 : Statement .dbit0 := ⟨by decide, by decide⟩
theorem dbit1 : Statement .dbit1 := ⟨by decide, by decide⟩
theorem dbit2 : Statement .dbit2 := ⟨by decide, by decide⟩
theorem dbit3 : Statement .dbit3 := ⟨by decide, by decide⟩
theorem dbit4 : Statement .dbit4 := ⟨by decide, by decide⟩
theorem dbit5 : Statement .dbit5 := ⟨by decide, by decide⟩
theorem dbit6 : Statement .dbit6 := ⟨by decide, by decide⟩
theorem dbit7 : Statement .dbit7 := ⟨by decide, by decide⟩
theorem mux0 : Statement .mux0 := ⟨by decide, by decide⟩
theorem mux1 : Statement .mux1 := ⟨by decide, by decide⟩
theorem mux2 : Statement .mux2 := ⟨by decide, by decide⟩
theorem mux3 : Statement .mux3 := ⟨by decide, by decide⟩
theorem mux4 : Statement .mux4 := ⟨by decide, by decide⟩
theorem mux5 : Statement .mux5 := ⟨by decide, by decide⟩
theorem mux6 : Statement .mux6 := ⟨by decide, by decide⟩
theorem mux7 : Statement .mux7 := ⟨by decide, by decide⟩
theorem stop (ident : Bool) : Statement (.stop ident) := by cases ident <;> exact ⟨by decide, by decide⟩
theorem holdLow (pos : BitVec 2) : Statement (.holdLow pos) := by revert pos; simp only [Statement]; decide
theorem holdHigh (five : Bool) : Statement (.holdHigh five) := by cases five <;> exact ⟨by decide, by decide⟩
theorem adv4 : Statement .adv4 := ⟨by decide, by decide⟩
theorem adv3 : Statement .adv3 := ⟨by decide, by decide⟩
theorem adv2 : Statement .adv2 := ⟨by decide, by decide⟩
theorem adv1 : Statement .adv1 := ⟨by decide, by decide⟩
theorem adv0 : Statement .adv0 := ⟨by decide, by decide⟩
theorem restart : Statement .restart := ⟨by decide, by decide⟩

end Sys2Proof.Laws.EncodesToRow
end

