-- ==== Sys2Proof/Laws/Run.lean ====
section
/-! SUPPORT. Runs: of a list of operations, and of the machine; and the timing check as its three inequalities. -/

namespace Sys2Proof

/-- The timing check says exactly the three constraints of 00_scope.md R6. -/
theorem Config.timingOk_iff (c : Config) :
    c.timingOk = true ↔ 1 ≤ c.div ∧ frameSlots ≤ c.byteTicks ∧ c.restartTicks < 2 ^ c.width := by
  unfold Config.timingOk Config.divOk Config.byteTicksOk Config.widthOk
  rw [Bool.and_eq_true, Bool.and_eq_true, decide_eq_true_iff, decide_eq_true_iff, decide_eq_true_iff, and_assoc]

/-- The OPEN instance of `State.reset` has well-formed timing, whatever its parameters are. -/
theorem Config.openInstance_timingOk : Config.openInstance.timingOk = true := by
  refine (Config.timingOk_iff _).mpr ⟨Nat.le_add_left _ _, Nat.le_add_left _ _, ?_⟩
  exact Nat.lt_of_lt_of_le Nat.lt_log2_self (Nat.pow_le_pow_right (by decide) (Nat.le_add_right _ _))

namespace Machine

/-- The instance in which `withFetchWord` places a word has well-formed timing. -/
theorem withTestTiming_timingOk (s : State) : s.withTestTiming.cfg.timingOk = true :=
  (Config.timingOk_iff _).mpr ⟨Nat.le_add_left _ _, (by decide : frameSlots ≤ 24), (by decide : 24 + 120 < 2 ^ 16)⟩

theorem runOps_append (a b : List Instr) (s : State) : runOps (a ++ b) s = andThen (runOps a s) (runOps b) := by
  induction a generalizing s with
  | nil => rfl
  | cons i a ih =>
    simp only [List.cons_append, runOps]
    cases exec i s <;> simp [andThen, ih]

theorem step_of_timingOk {s : State} (h : s.cfg.timingOk = true) : step s = nextEdge s := if_pos h

/-- A step that answers ran in an instance with well-formed timing. -/
theorem timingOk_of_step {s t : State} (h : step s = .next t) : s.cfg.timingOk = true := by
  unfold step at h
  split at h
  · assumption
  · cases h

theorem core_run_zero (s : State) : Sys2Proof.core.run 0 s = .next s := rfl

theorem host_run_succ (M : Host.Core) (n : Nat) (s : M.State) :
    M.run (n + 1) s = (match M.step s with
      | .next s' => M.run n s'
      | .fault r => .fault r
      | .refused r => .refused r) := rfl

/-- A run of the machine, first edge first. -/
theorem core_run_succ (n : Nat) (s : State) :
    Sys2Proof.core.run (n + 1) s = andThen (step s) (fun t => Sys2Proof.core.run n t) := by
  have h : Sys2Proof.core.step s = step s := rfl
  refine (host_run_succ Sys2Proof.core n s).trans ?_
  rw [h]
  cases step s <;> rfl

/-- Every edge of an instance with well-formed timing gives a next state, of the same instance, with the edge's port
sample used up. -/
theorem step_total {s : State} (h : s.cfg.timingOk = true) :
    ∃ t, step s = .next t ∧ t.cfg = s.cfg ∧ t.inputs = s.inputs.tail := by
  rw [step_of_timingOk h]
  unfold nextEdge
  cases hr : s.ports.rst
  · obtain ⟨t, h1, hc, hi, -, -⟩ := clkEdge_frame hr s.nextPorts
    exact ⟨t, h1, hc, hi⟩
  · exact ⟨_, clkEdge_reset hr s.nextPorts, rfl, rfl⟩

/-- An event-level run of a list is the run of its operations. -/
theorem EventRun.runOps_eq {events : List Instr} {s u : State} (h : EventRun events s u) :
    runOps events s = .next u := by
  induction events generalizing s with
  | nil => exact congrArg Host.Outcome.next (Eq.symm h)
  | cons i rest ih =>
    obtain ⟨t, hi, hr⟩ := h
    rw [runOps, hi.2]
    exact ih hr

theorem EventRun_append {a b : List Instr} {s t u : State} (h : EventRun a s t) (h' : EventRun b t u) :
    EventRun (a ++ b) s u := by
  induction a generalizing s with
  | nil => cases h; exact h'
  | cons i rest ih =>
    obtain ⟨r, hi, hr⟩ := h
    exact ⟨r, hi, ih hr⟩

/-- The events of an edge, written out: `RESET` alone, or the poll, the tick and the write, each where it falls. -/
theorem State.eventsAt_eq (p : Ports) (s : State) :
    s.eventsAt p = if p.rst then [.reset] else
      (if p.step then [Instr.step] else []) ++ (if s.tick then [Instr.tinc] else []) ++
        (if p.cfgWe then [.cfgw p.cfgWdata] else []) := by
  obtain ⟨r, w, d, q⟩ := p
  unfold State.eventsAt State.eventVector
  cases s.tick <;> cases r <;> cases w <;> cases q <;> simp [decodeEvents]

/-- An edge carries a `TINC` exactly when it ticks and is no `RESET`. -/
theorem State.tinc_mem_eventsAt (p : Ports) (s : State) :
    Instr.tinc ∈ s.eventsAt p ↔ p.rst = false ∧ s.tick = true := by
  rw [State.eventsAt_eq]
  cases p.rst <;> cases p.step <;> cases p.cfgWe <;> cases s.tick <;> simp

end Machine

end Sys2Proof
end

