-- ==== Sys2Proof/Tests/Slice0.lean ====
section
/-! SUPPORT. Tests. Expected values are the spec's own: the words of 30_encoding.md, the vectors and programs of
95_test_vectors.md, whose fixture is used (DEVID 0x12345678, table F, BYTE_TICKS 24, IDLE_TICKS 120, W 16, DIV 3). -/

namespace Sys2Proof.Tests

open Sys2Proof.Machine

/-- The configuration of 95_test_vectors.md. -/
def fixture : Config := ⟨0x12345678, 0x050505854525150D, 3, 24, 120, 16⟩

/-- A state `<TCNT, BIDX, DATA, OUT>` with `CTL = 0x7FF` and the divider at `d`. -/
def st (t : Nat) (b : BytePos) (d o : Byte) (div : Nat := 0) : State where
  cfg := fixture
  inputs := []
  tcnt := t
  bidx := b
  data := d
  out := o
  ctl := 0x7FF
  divcnt := div

/-- `<TCNT, BIDX, DATA, OUT>` of a next state. -/
def view : Host.Outcome State Fault Refusal → Option (Nat × BytePos × Byte × Byte)
  | .next s => some (s.tcnt, s.bidx, s.data, s.out)
  | _ => none

/-- `CTL` and `DIVCNT` of a next state. -/
def ctlView : Host.Outcome State Fault Refusal → Option (CtlWord × Nat)
  | .next s => some (s.ctl, s.divcnt)
  | _ => none

/-! ### Decoding: every row's word written out from 30_encoding.md -/

theorem test_decode_reset : decodeEvents 0b1000 0x5A3 = [.reset] := by decide
theorem test_decode_divclk : decodeEvents 0b0000 0x5A3 = [.divclk] := by decide
theorem test_decode_tinc : decodeEvents 0b0001 0x5A3 = [.divclk, .tinc] := by decide
theorem test_decode_step : decodeEvents 0b0010 0x5A3 = [.step, .divclk] := by decide
theorem test_decode_cfgw : decodeEvents 0b0100 0x5A3 = [.divclk, .cfgw 0x5A3] := by decide
theorem test_decode_start : decodeRender 0b00000 = .ok (.start false) ∧ decodeRender 0b10000 = .ok (.start true) := by decide
theorem test_decode_dbit0 : decodeRender 0b00001 = .ok .dbit0 := by decide
theorem test_decode_dbit1 : decodeRender 0b00010 = .ok .dbit1 := by decide
theorem test_decode_dbit2 : decodeRender 0b00011 = .ok .dbit2 := by decide
theorem test_decode_dbit3 : decodeRender 0b00100 = .ok .dbit3 := by decide
theorem test_decode_dbit4 : decodeRender 0b00101 = .ok .dbit4 := by decide
theorem test_decode_dbit5 : decodeRender 0b00110 = .ok .dbit5 := by decide
theorem test_decode_dbit6 : decodeRender 0b00111 = .ok .dbit6 := by decide
theorem test_decode_dbit7 : decodeRender 0b01000 = .ok .dbit7 := by decide
theorem test_decode_mux0 : decodeRender 0b10001 = .ok .mux0 := by decide
theorem test_decode_mux1 : decodeRender 0b10010 = .ok .mux1 := by decide
theorem test_decode_mux2 : decodeRender 0b10011 = .ok .mux2 := by decide
theorem test_decode_mux3 : decodeRender 0b10100 = .ok .mux3 := by decide
theorem test_decode_mux4 : decodeRender 0b10101 = .ok .mux4 := by decide
theorem test_decode_mux5 : decodeRender 0b10110 = .ok .mux5 := by decide
theorem test_decode_mux6 : decodeRender 0b10111 = .ok .mux6 := by decide
theorem test_decode_mux7 : decodeRender 0b11000 = .ok .mux7 := by decide
theorem test_decode_stop : decodeRender 0b01001 = .ok (.stop false) ∧ decodeRender 0b11001 = .ok (.stop true) := by decide
theorem test_decode_holdLow : decodeSeq 0b0000 = .ok (.holdLow 0) ∧ decodeSeq 0b0110 = .ok (.holdLow 3) := by decide
theorem test_decode_holdHigh : decodeSeq 0b1000 = .ok (.holdHigh false) ∧ decodeSeq 0b1010 = .ok (.holdHigh true) := by decide
theorem test_decode_adv4 : decodeSeq 0b1011 = .ok .adv4 := by decide
theorem test_decode_adv3 : decodeSeq 0b1001 = .ok .adv3 := by decide
theorem test_decode_adv2 : decodeSeq 0b0111 = .ok .adv2 := by decide
theorem test_decode_adv1 : decodeSeq 0b0101 = .ok .adv1 := by decide
theorem test_decode_adv0 : decodeSeq 0b0011 = .ok .adv0 := by decide
theorem test_decode_restart : decodeSeq 0b0001 = .ok .restart := by decide

/-- 95_test_vectors.md 2.5, the bytes that are not step words. -/
theorem test_reserved_step_words : decodeStepWord 0xC0 = .error (.bytePos 6) ∧
    decodeStepWord 0xE9 = .error (.bytePos 7) ∧ decodeStepWord 0x8A = .error (.slot 10) ∧
    decodeStepWord 0x0F = .error (.slot 15) := by decide

/-- The reading of a bare table word (log 9). -/
theorem test_table_words : decodeTableWord 8 0x14 = some .mux3 ∧ decodeTableWord 8 0x02 = some .dbit1 ∧
    decodeTableWord 8 0x0B = some .adv4 ∧ decodeTableWord 8 0x0C = some .reset ∧
    decodeTableWord 8 0x1A = none := by decide

/-- The first edge after reset performs the operation placed: `STOP`, then `ADV4`. -/
theorem test_fetch_word : (view (step (State.reset.withFetchWord 8 0x09))).map (·.2.2.2) = some 0xFF ∧
    (view (step (State.reset.withFetchWord 8 0x0B))).map (·.2.1) = some .b4 := by decide

/-! ### Well-formedness: an ill-formed configuration or key for each check -/

theorem test_wf_fixture : fixture.wellFormed = true := by decide
theorem test_wf_div : Config.divOk { fixture with div := 0 } = false := by decide
theorem test_wf_byteTicks : Config.byteTicksOk { fixture with byteTicks := 9 } = false := by decide
theorem test_wf_width : Config.widthOk { fixture with width := 7 } = false := by decide
theorem test_wf_timing : Config.timingOk { fixture with div := 0 } = false := by decide
theorem test_wf_marker : Config.markerOk { fixture with cit := 0x050505854525150C } = false := by decide
theorem test_wf_columns : Config.columnsOk { fixture with cit := 0x0D0505854525150D } = false := by decide
theorem test_wf_table : Config.wellFormed { fixture with cit := 0x0D0505854525150D } = false := by decide
theorem test_wf_render_key : (Key.render 0b01010).wellFormed = false := by decide
theorem test_wf_seq_key : (Key.seq 0b1100).wellFormed = false := by decide

/-! ### One step each: 95_test_vectors.md section 2 -/

theorem test_tinc_vt3 : view (exec .tinc (st 23 .b4 0x12 0xFF)) = some (24, .b4, 0x12, 0xFF) := by decide
theorem test_tinc_vt6 : view (exec .tinc (st 65535 .b0 0x00 0xFF)) = some (0, .b0, 0x00, 0xFF) := by decide
theorem test_divclk_vt12 : ctlView (exec .divclk (st 0 .b0 0 0xFF 2)) = some (0x7FF, 0) ∧
    (st 0 .b0 0 0xFF 2).tick = true := by decide
theorem test_divclk_vt14 : ctlView (exec .divclk { st 0 .b0 0 0xFF 2 with ctl := 0x600 }) = some (0x600, 0) ∧
    State.expire { st 0 .b0 0 0xFF 2 with ctl := 0x600 } = false := by decide
theorem test_start_vr1 : view (exec (.start false) (st 0 .b4 0xFF 0xFF)) = some (0, .b4, 0xFF, 0x00) := by decide
theorem test_dbit0_vr3 : view (exec .dbit0 (st 1 .b3 0xA5 0x3C)) = some (1, .b3, 0xA5, 0xFF) := by decide
theorem test_dbit1_vr4 : view (exec .dbit1 (st 2 .b3 0xA5 0x3C)) = some (2, .b3, 0xA5, 0x00) := by decide
theorem test_dbit2_vr5 : view (exec .dbit2 (st 3 .b3 0xA5 0x3C)) = some (3, .b3, 0xA5, 0xFF) := by decide
theorem test_dbit3_vr6 : view (exec .dbit3 (st 4 .b3 0xA5 0x3C)) = some (4, .b3, 0xA5, 0x00) := by decide
theorem test_dbit4_vr7 : view (exec .dbit4 (st 5 .b3 0xA5 0x3C)) = some (5, .b3, 0xA5, 0x00) := by decide
theorem test_dbit5_vr8 : view (exec .dbit5 (st 6 .b3 0xA5 0x3C)) = some (6, .b3, 0xA5, 0xFF) := by decide
theorem test_dbit6_vr9 : view (exec .dbit6 (st 7 .b3 0xA5 0x3C)) = some (7, .b3, 0xA5, 0x00) := by decide
theorem test_dbit7_vr10 : view (exec .dbit7 (st 8 .b3 0xA5 0x3C)) = some (8, .b3, 0xA5, 0xFF) := by decide
theorem test_mux0_vr11 : view (exec .mux0 (st 1 .b0 0xA5 0xAA)) = some (1, .b0, 0xA5, 0xFF) := by decide
theorem test_mux1_vr12 : view (exec .mux1 (st 2 .b0 0xA5 0xAA)) = some (2, .b0, 0xA5, 0x00) := by decide
theorem test_mux2_vr13 : view (exec .mux2 (st 3 .b0 0xA5 0xAA)) = some (3, .b0, 0xA5, 0xFF) := by decide
theorem test_mux3_vr14 : view (exec .mux3 (st 4 .b0 0xA5 0xAA)) = some (4, .b0, 0xA5, 0x01) := by decide
theorem test_mux4_vr15 : view (exec .mux4 (st 5 .b0 0xA5 0xAA)) = some (5, .b0, 0xA5, 0x02) := by decide
theorem test_mux5_vr16 : view (exec .mux5 (st 6 .b0 0xA5 0xAA)) = some (6, .b0, 0xA5, 0x04) := by decide
theorem test_mux6_vr17 : view (exec .mux6 (st 7 .b0 0xA5 0xAA)) = some (7, .b0, 0xA5, 0x08) := by decide
theorem test_mux7_vr18 : view (exec .mux7 (st 8 .b0 0xA5 0xAA)) = some (8, .b0, 0xA5, 0x10) := by decide
theorem test_stop_vr23 : view (exec (.stop false) (st 65535 .b4 0x12 0x00)) = some (65535, .b4, 0x12, 0xFF) := by decide
theorem test_holdLow_vq7 : view (exec (.holdLow 0) (st 143 .b0 0x00 0xFF)) = some (143, .b0, 0x00, 0xFF) := by decide
theorem test_holdHigh_vq1 : view (exec (.holdHigh false) (st 23 .b4 0x12 0xFF)) = some (23, .b4, 0x12, 0xFF) := by decide
theorem test_adv4_vq9 : view (exec .adv4 (st 144 .b5 0x00 0xFF)) = some (0, .b4, 0x12, 0xFF) := by decide
theorem test_adv3_vq2 : view (exec .adv3 (st 24 .b4 0x12 0xFF)) = some (0, .b3, 0x34, 0xFF) := by decide
theorem test_adv2_vq3 : view (exec .adv2 (st 24 .b3 0x34 0xFF)) = some (0, .b2, 0x56, 0xFF) := by decide
theorem test_adv1_vq4 : view (exec .adv1 (st 24 .b2 0x56 0xFF)) = some (0, .b1, 0x78, 0xFF) := by decide
theorem test_adv0_vq5 : view (exec .adv0 (st 24 .b1 0x78 0xFF)) = some (0, .b0, 0x00, 0xFF) := by decide
theorem test_restart_vq8 : view (exec .restart (st 144 .b0 0x00 0xFF)) = some (144, .b5, 0x00, 0xFF) := by decide
theorem test_step_vq17 : view (exec .step (st 23 .b5 0x00 0xFF)) = some (23, .b5, 0x00, 0xFF) := by decide
/-- VQ24, in the ill-formed configuration of that vector: both halves work from the same samples. -/
theorem test_step_vq24 : view (exec .step { st 4 .b3 0x34 0xFF with
    cfg := { fixture with byteTicks := 4, idleTicks := 2 } }) = some (0, .b2, 0x56, 0x00) := by decide
theorem test_stepWord_vq9 : (st 144 .b5 0x00 0xFF).stepWord = 0xB9 := by decide
theorem test_reset_vs1 : view (exec .reset (st 17 .b3 0x34 0x00 2)) = some (0, .b0, 0x00, 0xFF) ∧
    ctlView (exec .reset (st 17 .b3 0x34 0x00 2)) = some (0, 0) := by decide
theorem test_cfgw_vs7 : view (exec (.cfgw 0) (st 5 .b2 0x56 0xFF)) = some (5, .b2, 0x56, 0xFF) ∧
    ctlView (exec (.cfgw 0) (st 5 .b2 0x56 0xFF)) = some (0, 0) := by decide

/-- `st` with the ports of the coming edge. -/
def edge (s : State) (rst we : Bool) (wdata : CtlWord) (poll : Bool) : State := s.pushPorts ⟨rst, we, wdata, poll⟩

theorem test_edge_vs9 : view (step (edge (st 24 .b4 0x12 0xFF 2) false false 0 true)) = some (1, .b3, 0x34, 0xFF) := by
  decide
theorem test_edge_vs14 : view (step (edge (st 5 .b2 0x56 0xFF 2) false true 0 false)) = some (6, .b2, 0x56, 0xFF) ∧
    ctlView (step (edge (st 5 .b2 0x56 0xFF 2) false true 0 false)) = some (0, 0) := by decide
theorem test_edge_vs15 : State.eventVector ⟨true, true, 0x7FF, true⟩ (st 24 .b4 0x12 0xFF 2) = 0b1110 ∧
    view (step (edge (st 24 .b4 0x12 0xFF 2) true true 0x7FF true)) = some (0, .b0, 0x00, 0xFF) := by decide
theorem test_edge_vs17 : view (step (edge (st 144 .b5 0 0xFF 2) false false 0 true)) = some (1, .b4, 0x12, 0xFF) := by
  decide

/-- VS8: the pins for `OUT = 0x01`. -/
theorem test_pins_vs8 : (st 4 .b0 0 0x01).pin 0 7 = .high ∧ (st 4 .b0 0 0x01).pin 1 0 = .low ∧
    State.pin { st 4 .b0 0 0x01 with ctl := 0x7FE } 0 3 = .z := by decide

/-! ### Witnesses: a state that meets all hypotheses of a statement together -/

/-- An outcome that is a next state. -/
def answers : Host.Outcome State Fault Refusal → Bool
  | .next _ => true
  | _ => false

/-- The fixture just after `ADV4`. -/
def cycleStart (div : Nat := 0) : State := st 0 .b4 0x12 0xFF div

theorem witness_IdByteIsByteOfDeviceIdentifier : (3 : Nat) ≤ 3 ∧ idByte fixture 3 = 0x12 ∧ idByte fixture 0 = 0x78 := by
  decide
theorem witness_ColumnCollectsOneBitOfEveryRow : (7 : Nat) < 8 ∧ pattern fixture 7 7 = false ∧
    pattern fixture 4 7 = true ∧ pattern fixture 0 0 = true := by decide
theorem witness_PinsCarryOutWhereEnabled :
    (st 0 .b0 0 0x01).ctl.getLsbD 0 = true ∧ (st 0 .b0 0 0x01).out.getLsbD 0 = true ∧
    (st 0 .b0 0 0x01).ctl.getLsbD 7 = true ∧ (st 0 .b0 0 0x01).out.getLsbD 7 = false ∧
    (BitVec.getLsbD (0x77F : CtlWord) 7) = false := by decide
theorem witness_TicksNeverMoveThePins : answers (step (st 3 .b4 0x12 0xFF 2)) = true ∧
    (st 3 .b4 0x12 0xFF 2).tick = true ∧ (st 3 .b4 0x12 0xFF 2).ports = Ports.idle ∧
    answers (exec .tinc (st 3 .b4 0x12 0xFF 2)) = true := by decide
theorem witness_OnlyHostOperationsWriteControl : answers (exec .step (st 3 .b4 0x12 0xFF)) = true ∧
    Instr.step ≠ .reset ∧ ∀ v, Instr.step ≠ .cfgw v := ⟨by decide, by decide, fun _ h => by cases h⟩
theorem witness_OnlyPollsMoveTheSequencer :
    answers (step (edge (st 3 .b4 0x12 0xFF 2) false true 0x55 false)) = true ∧
    (edge (st 3 .b4 0x12 0xFF 2) false true 0x55 false).ports.step = false ∧
    (edge (st 3 .b4 0x12 0xFF 2) false true 0x55 false).ports.rst = false := by decide
theorem witness_ParametersNeverChange : ∃ t, Sys2Proof.core.run 2 (cycleStart) = .next t := ⟨_, rfl⟩
theorem witness_InvariantHoldsAtReset : fixture.timingOk = true := by decide
theorem witness_EveryStepKeepsInvariant : (edge (st 24 .b4 0x12 0xFF 2) false false 0 true).Inv ∧
    answers (step (edge (st 24 .b4 0x12 0xFF 2) false false 0 true)) = true :=
  ⟨⟨by decide, by decide, by decide⟩, by decide⟩
theorem witness_EncodeOfDecodeIsTheKey : decodeRender 0b11000 = .ok .mux7 ∧ decodeSeq 0b1010 = .ok (.holdHigh true) := by
  decide
theorem witness_EachKeyMatchesOneRow : decodeRender 0b00001 = .ok .dbit0 ∧ decodeRender 0b10001 = .ok .mux0 ∧
    decodeSeq 0b0110 = .ok (.holdLow 3) ∧ decodeSeq 0b0111 = .ok .adv2 := by decide
theorem witness_PlacedKeyIsTheKeySelected : fixture.timingOk = true ∧ decodeRender 0b10001 = .ok .mux0 ∧
    decodeSeq 0b0001 = .ok .restart ∧ decodeSeq 0b1000 = .ok (.holdHigh false) := by decide
theorem witness_TincIncrementsModuloWidth : (st 65535 .b0 0 0xFF).tcnt = 2 ^ (st 65535 .b0 0 0xFF).cfg.width - 1 := by
  decide
theorem witness_DivclkHoldsReloadsOrCounts :
    (BitVec.getLsbD (0x600 : CtlWord) 8) = false ∧ (st 0 .b0 0 0 2).ctl.getLsbD 8 = true ∧
    (st 0 .b0 0 0 2).divcnt = reloadOf (st 0 .b0 0 0 2).cfg ∧ (st 0 .b0 0 0 1).divcnt ≠ reloadOf (st 0 .b0 0 0 1).cfg ∧
    1 ≤ fixture.div := by
  decide
/-- `n = 2`, the edge before the first tick, and `n = 3`, the edge after it; two of the samples listed. -/
theorem witness_TickFallsAtEveryDivEdges : fixture.timingOk = true ∧ (st 0 .b0 0 0xFF).arm = true ∧
    (st 0 .b0 0 0xFF).tie = true ∧ (st 0 .b0 0 0xFF).gie = true ∧ (st 0 .b0 0 0xFF).divcnt = 0 ∧
    (st 0 .b0 0 0xFF).tcnt < 2 ^ fixture.width ∧
    ∀ p ∈ [Ports.idle, Ports.idle], p.rst = false ∧ p.cfgWe = false ∧ p.step = false := by decide
/-- The same with a `CFGW` that clears one `OE` bit and keeps the three others, and the edge that arms. -/
theorem witness_TickFallsAtEveryDivEdges_writes : Ports.keepsTicks (Ports.config 0x77F) ∧ Ports.keepsTicks Ports.poll ∧
    (∀ p ∈ [Ports.config 0x77F, Ports.poll], p.rst = false) ∧
    State.arm { st 0 .b0 0 0xFF with ctl := 0 } = false ∧ (Ports.config 0x7FF).cfgWe = true ∧
    Ports.keepsTicks (Ports.config 0x7FF) :=
  ⟨fun _ => by decide, fun h => absurd h (by decide), by decide, by decide, rfl, fun _ => by decide⟩
/-- The four clauses at the ends of their ranges: offsets 0, 1, 8 and 9, with and without `IDENT`. -/
theorem witness_StepLevelsByOffset : (st 0 .b0 0 0).tcnt = 0 ∧ (st 1 .b0 0 0).tcnt = 0 + 1 ∧
    (st 8 .b0 0 0).tcnt = 7 + 1 ∧ (st 8 .b0 0 0).bidx = .b0 ∧ (st 1 .b1 0 0).tcnt = 0 + 1 ∧
    (st 8 .b5 0 0).tcnt = 7 + 1 ∧ (st 8 .b5 0 0).bidx ≠ .b0 ∧ 8 < (st 9 .b0 0 0).tcnt := by decide
theorem witness_ChannelsAgreeOnOrdinaryBytes : (st 2 .b4 0x12 0xAA).bidx ≠ .b0 := by decide
theorem witness_IdentificationByteIgnoresPayload : (st 4 .b0 0x00 0xFF).bidx = .b0 := by decide
/-- The four clauses at their thresholds: 143 and 144 at `BIDX = 0`, 23 and 24 elsewhere. -/
theorem witness_StepMovesTheSequencerByThreshold :
    (st 143 .b0 0 0).tcnt < fixture.byteTicks + fixture.idleTicks ∧
    fixture.byteTicks + fixture.idleTicks ≤ (st 144 .b0 0 0).tcnt ∧ (st 23 .b5 0 0).tcnt < fixture.byteTicks ∧
    (st 23 .b5 0 0).bidx ≠ .b0 ∧ fixture.byteTicks ≤ (st 24 .b1 0 0).tcnt ∧ (st 24 .b1 0 0).bidx ≠ .b0 := by decide
theorem witness_RepeatedPollChangesNothing : (st 3 .b2 0x56 0x00).exp = false := by decide
theorem witness_CycleStartForgetsThePast : fixture.timingOk = true ∧ (st 144 .b5 0 0xFF).bidx = .b5 ∧
    (st 24 .b5 0x33 0x00).bidx = .b5 ∧ fixture.byteTicks ≤ (st 144 .b5 0 0xFF).tcnt ∧
    fixture.byteTicks ≤ (st 24 .b5 0x33 0x00).tcnt ∧ (st 24 .b5 0x33 0x00).cfg = (st 144 .b5 0 0xFF).cfg ∧
    (st 24 .b5 0x33 0x00).ctl = (st 144 .b5 0 0xFF).ctl ∧
    (st 24 .b5 0x33 0x00).divcnt = (st 144 .b5 0 0xFF).divcnt ∧
    (st 24 .b5 0x33 0x00).inputs = (st 144 .b5 0 0xFF).inputs := by decide
theorem witness_LatePollStillAdvances : (st 20 .b4 0x12 0xFF).bidx ≠ .b0 ∧ fixture.byteTicks ≤ 20 + 10 ∧
    20 + 10 < 2 ^ fixture.width := by decide
/-- For the statements about cycles: `CycleLaw`, `CycleReturnsToItsStart`, `PhysicalSignalContract`. -/
theorem witness_cycle_statements : cycleStart.cfg.timingOk = true ∧ cycleStart.contractMet ∧
    cycleStart.atCycleStart ∧ PolledEnough (fun i => if i = 0 then 1 else 3) :=
  ⟨by decide, rfl, ⟨rfl, rfl, by decide, rfl⟩, Nat.le_refl 1, fun i hi => by simp [Nat.ne_of_gt hi]⟩
/-- For the stretch from reset to the first cycle start, at both ends of its range: slots 0 and 143, three polls each. -/
theorem witness_CycleReturnsToItsStart_first : (st 0 .b0 0 0xFF).cfg.timingOk = true ∧ (st 0 .b0 0 0xFF).contractMet ∧
    (st 0 .b0 0 0xFF).bidx = .b0 ∧ (st 0 .b0 0 0xFF).tcnt = 0 ∧ 0 < fixture.restartTicks ∧ 143 < fixture.restartTicks ∧
    (1 : Nat) ≤ (fun _ => 3) 143 := ⟨by decide, rfl, rfl, rfl, by decide, by decide, by decide⟩
/-- One tick a byte, so that nine events make the five loads of a cycle. -/
def brief : State := { st 1 .b5 0 0xFF with cfg := { fixture with byteTicks := 1, idleTicks := 0 } }
theorem witness_PayloadsConcatenateToDeviceIdentifier :
    (∀ i ∈ [Instr.step, .tinc, .step, .tinc, .step, .tinc, .step, .tinc, .step], i = .step ∨ i = .tinc) ∧
    payloadLoads [.step, .tinc, .step, .tinc, .step, .tinc, .step, .tinc, .step] brief =
      [(.adv4, 0x12), (.adv3, 0x34), (.adv2, 0x56), (.adv1, 0x78), (.adv0, 0x00)] := by decide
theorem witness_StepRunsTheDecodedEvents : (edge (cycleStart 2) false true 0x55 true).cfg.timingOk = true := by decide
theorem witness_ResetEdgeIgnoresEverythingElse : fixture.timingOk = true ∧
    (edge (cycleStart 2) true true 0x7FF true).ports.rst = true := by decide
/-- All three clauses: a clearing poll at 24, a hold at 23, `BIDX = 0` at its threshold. -/
theorem witness_PollAndTickOnOneEdge : fixture.timingOk = true ∧
    (edge (st 24 .b4 0x12 0xFF 2) false false 0 true).ports = Ports.poll ∧
    (edge (st 24 .b4 0x12 0xFF 2) false false 0 true).tick = true ∧ (st 24 .b4 0x12 0xFF 2).bidx ≠ .b0 ∧
    fixture.byteTicks ≤ (st 24 .b4 0x12 0xFF 2).tcnt ∧ (st 23 .b4 0x12 0xFF 2).tcnt < fixture.byteTicks ∧
    (st 144 .b0 0 0xFF 2).bidx = .b0 ∧ (st 144 .b0 0 0xFF 2).tick = true := by decide
theorem witness_ConfigWriteActsFromTheNextEdge : Ports.poll.rst = false := by decide
theorem witness_ClockRunsAreEventRuns :
    ∃ t, Sys2Proof.core.run 2 (edge (cycleStart 2) false true 0x55 true) = .next t := ⟨_, rfl⟩
/-- The events of an edge with a poll, a tick and a write, and of the edge after it. -/
theorem test_clockEvents : clockEvents 2 (edge (cycleStart 2) false true 0x55 true) = [.step, .tinc, .cfgw 0x55] := by
  decide
theorem witness_NothingEverFaults : (cycleStart 2).cfg.timingOk = true := by decide
theorem witness_MaskedExpiriesAreLost : fixture.timingOk = true ∧
    State.tie { cycleStart 2 with ctl := 0x5FF } = false ∧ State.gie { cycleStart 2 with ctl := 0x3FF } = false ∧
    ∀ p ∈ [Ports.idle], p.rst = false ∧ p.cfgWe = false ∧ p.step = false := by decide
/-- The clause on the enabling edge, program P8(b): masked at edge 0, all three enables at edge 1, `k = 1`. -/
def enabling : State := { cycleStart 2 with ctl := 0x5FF, inputs := [Ports.idle, Ports.config 0x7FF, Ports.idle] }
theorem witness_MaskedExpiriesAreLost_enabling : enabling.cfg.timingOk = true ∧ enabling.tie = false ∧
    enabling.divcnt < enabling.cfg.div ∧ enabling.tcnt < 2 ^ enabling.cfg.width ∧
    (BitVec.getLsbD (0x7FF : CtlWord) 8 && BitVec.getLsbD (0x7FF : CtlWord) 9 && BitVec.getLsbD (0x7FF : CtlWord) 10) = true ∧
    enabling.inputs[1]? = some (Ports.config 0x7FF) ∧
    (∀ p ∈ enabling.inputs.take 1, p.rst = false ∧ p.cfgWe = false ∧ p.step = false) ∧
    ∀ p ∈ (enabling.inputs.drop 2).take 1, p.rst = false ∧ p.cfgWe = false ∧ p.step = false := by decide
/-- The states of the clock-level run from the fixture's cycle start that is polled at every edge, for ever. -/
def polledState : Nat → State
  | 0 => cycleStart 2
  | n + 1 =>
    match clkEdge Ports.poll (polledState n) with
    | .next t => t
    | _ => polledState n
theorem polledState_edge (n : Nat) : clkEdge Ports.poll (polledState n) = .next (polledState (n + 1)) ∧
    (polledState (n + 1)).ctl = (polledState n).ctl := by
  obtain ⟨t, h, -, -, hc, -⟩ := clkEdge_frame (p := Ports.poll) rfl (polledState n)
  have e : polledState (n + 1) = t := by rw [polledState, h]
  rw [e]
  exact ⟨h, hc⟩
theorem ticksEnabled_of_contractMet {s : State} (h : s.contractMet) : s.ticksEnabled = true := by
  unfold State.contractMet at h
  unfold State.ticksEnabled State.arm State.tie State.gie
  rw [h]
  rfl
theorem polledState_contractMet (n : Nat) : (polledState n).contractMet := by
  induction n with
  | zero => rfl
  | succ n ih => exact (polledState_edge n).2.trans ih
theorem witness_ClockRunsAreFair :
    (∀ n, clkEdge ((fun _ => Ports.poll) n) (polledState n) = .next (polledState (n + 1))) ∧
    (polledState 0).divcnt < (polledState 0).cfg.div ∧ ∀ n, (polledState n).ticksEnabled = true :=
  ⟨fun n => (polledState_edge n).1, by decide, fun n => ticksEnabled_of_contractMet (polledState_contractMet n)⟩
/-- The bound at the fixture's `DIV = 3`, a poll at every edge. -/
def polledList : State := { cycleStart 2 with inputs := [Ports.poll, Ports.poll, Ports.poll] }
theorem witness_ClockRunsAreFair_bound : polledList.cfg.timingOk = true ∧ polledList.divcnt < polledList.cfg.div ∧
    ∀ n ∈ [0, 1, 2, 3], (ctlView (Sys2Proof.core.run n polledList)).map (·.1) = some 0x7FF := by decide
/-- A poll and a tick in turn. -/
def turn (n : Nat) : Instr := if n % 2 = 0 then .step else .tinc
/-- The states of the run of `turn` from the fixture's cycle start. -/
def turnState : Nat → State
  | 0 => cycleStart
  | n + 1 =>
    match exec (turn n) (turnState n) with
    | .next t => t
    | _ => turnState n
theorem turnState_step (n : Nat) : exec (turn n) (turnState n) = .next (turnState (n + 1)) ∧
    (turnState (n + 1)).ctl = (turnState n).ctl := by
  have h : ∃ t, exec (turn n) (turnState n) = .next t ∧ t.ctl = (turnState n).ctl := by
    unfold turn
    split
    · obtain ⟨o, b, d, t, e⟩ := execStep_total (turnState n)
      exact ⟨_, e, rfl⟩
    · exact ⟨_, rfl, rfl⟩
  obtain ⟨t, h, hc⟩ := h
  have e : turnState (n + 1) = t := by rw [turnState, h]
  rw [e]
  exact ⟨h, hc⟩
theorem turnState_ticksEnabled (n : Nat) : (turnState n).ticksEnabled = true :=
  ticksEnabled_of_contractMet <| by
    induction n with
    | zero => rfl
    | succ n ih => exact (turnState_step n).2.trans ih
theorem witness_FairRunsStartCyclesForever : FairRun turn turnState ∧ (turnState 0).cfg.timingOk = true ∧
    (∃ m, ∀ n, m ≤ n → (turnState n).ticksEnabled = true) ∧ PolledInEverySlot turn := by
  refine ⟨⟨fun n => ⟨?_, (turnState_step n).1⟩, fun _ m => ⟨2 * m + 1, by omega, ?_⟩⟩, by decide,
    ⟨0, fun n _ => turnState_ticksEnabled n⟩, fun a b hab ha hb => ⟨a + 1, by omega, ?_, ?_⟩⟩
  · unfold turn
    split
    · exact .inr (.inl rfl)
    · exact .inr (.inr (.inr ⟨rfl, turnState_ticksEnabled n⟩))
  · simp [turn, Nat.add_mod]
  all_goals
    have ha' : a % 2 ≠ 0 := fun h => by simp [turn, h] at ha
    have hb' : b % 2 ≠ 0 := fun h => by simp [turn, h] at hb
  · omega
  · simp [turn, show (a + 1) % 2 = 0 by omega]
theorem witness_BeforeConfigurationNothingMoves : (State.resetOf fixture).cfg.timingOk = true ∧
    (State.resetOf fixture).ctl = 0 ∧ (State.resetOf fixture).tcnt = 0 ∧ (State.resetOf fixture).bidx = .b0 ∧
    (State.resetOf fixture).divcnt = 0 ∧ ∀ p ∈ [Ports.poll, Ports.poll], p.cfgWe = false := by decide
theorem witness_ThirdPollRendersTheStartBit : fixture.timingOk = true ∧ (st 144 .b0 0 0xFF).bidx = .b0 ∧
    (st 144 .b0 0 0xFF).tcnt = fixture.restartTicks := by decide
/-- The fixture with an 8-bit threshold and a 7-bit counter, at its largest value. -/
def narrow : State := { st 127 .b0 0 0xFF with cfg := { fixture with width := 7 } }
theorem witness_NarrowCounterNeverRestarts : (∀ i ∈ [Instr.step, .tinc], i = .step ∨ i = .tinc) ∧
    2 ^ narrow.cfg.width ≤ narrow.cfg.restartTicks ∧ narrow.bidx = .b0 ∧ narrow.tcnt < 2 ^ narrow.cfg.width := by decide
theorem witness_ClockLevelCycleIsExact : ∃ (s : State) (rest : List Ports), s.cfg.timingOk = true ∧ 3 ≤ s.cfg.div ∧
    s.contractMet ∧ s.atCycleStart ∧ s.divcnt = 2 ∧
    s.inputs = List.replicate (s.cfg.div * s.cfg.cycleTicks) Ports.poll ++ rest :=
  ⟨{ cycleStart 2 with inputs := List.replicate (fixture.div * fixture.cycleTicks) Ports.poll ++ [] }, [],
    by decide, by decide, rfl, ⟨rfl, rfl, by decide, rfl⟩, rfl, rfl⟩

end Sys2Proof.Tests
end

/-! PROOFS. The two levels of the model and the configurations it refuses (00_scope.md R6, R8, R13).

The event level drops the divider's count and the port samples. `State.withClock` replaces exactly these two; events
commute with it, so an edge, which also performs `DIVCLK` and uses up a sample, is simulated by its events alone. -/

namespace Sys2Proof.Machine

/-! ### The part of the state the event level drops -/

/-- The same state with the divider's count `d` and the coming port samples `l`: what an event-level run says nothing
about (00_scope.md R13). -/
def State.withClock (s : State) (d : Nat) (l : List Ports) : State := { s with divcnt := d, inputs := l }

/-! ### The operations of an event commute with it -/

theorem andThen_ite (c : Prop) [Decidable c] (o o' : Host.Outcome State Fault Refusal)
    (f : State → Host.Outcome State Fault Refusal) :
    andThen (if c then o else o') f = if c then andThen o f else andThen o' f :=
  apply_ite (andThen · f) c o o'

/-- `RENDER` with another count and other samples: every arm drives `OUT` from the registers alone. -/
theorem render_withClock (b : BytePos) (t : Nat) (s : State) (d : Nat) (l : List Ports) :
    render b t (s.withClock d l) = andThen (render b t s) fun u => .next (u.withClock d l) := by
  unfold render
  split <;> rfl

/-- `SEQ` with another count and other samples: the same threshold, and arms that write neither. -/
theorem seq_withClock (b : BytePos) (t : Nat) (s : State) (d : Nat) (l : List Ports) :
    seq b t (s.withClock d l) = andThen (seq b t s) fun u => .next (u.withClock d l) := by
  cases b <;> simp only [seq, andThen_ite] <;> rfl

/-- `STEP` neither reads nor writes the divider's count and the port samples. -/
theorem execStep_withClock {s s' : State} (h : execStep s = .next s') (d : Nat) (l : List Ports) :
    execStep (s.withClock d l) = .next (s'.withClock d l) := by
  obtain ⟨r, hr, hq⟩ := andThen_eq_next.mp h
  refine andThen_eq_next.mpr ⟨r.withClock d l, ?_, ?_⟩
  · exact (render_withClock s.bidx s.tcnt s d l).trans (by rw [hr, andThen_next])
  · exact (seq_withClock s.bidx s.tcnt r d l).trans (by rw [hq, andThen_next])

/-- An event falls, with the same effect on what the event level keeps, whatever the count and the samples are. -/
theorem EventStep.withClock {i : Instr} {s s' : State} (h : EventStep i s s') (d : Nat) (l : List Ports) :
    ∃ d' l', EventStep i (s.withClock d l) (s'.withClock d' l') := by
  obtain ⟨hi, he⟩ := h
  obtain rfl | rfl | ⟨v, rfl⟩ | ⟨rfl, hticks⟩ := hi
  · cases he
    exact ⟨0, l, .inl rfl, rfl⟩
  · exact ⟨d, l, .inr (.inl rfl), execStep_withClock he d l⟩
  · cases he
    exact ⟨d, l, .inr (.inr (.inl ⟨v, rfl⟩)), rfl⟩
  · cases he
    exact ⟨d, l, .inr (.inr (.inr ⟨rfl, hticks⟩)), rfl⟩

theorem EventRun.withClock {events : List Instr} {s u : State} (h : EventRun events s u) (d : Nat) (l : List Ports) :
    ∃ d' l', EventRun events (s.withClock d l) (u.withClock d' l') := by
  induction events generalizing s d l with
  | nil =>
    cases h
    exact ⟨d, l, rfl⟩
  | cons i rest ih =>
    obtain ⟨r, hi, hrest⟩ := h
    obtain ⟨d₁, l₁, hi'⟩ := hi.withClock d l
    obtain ⟨d₂, l₂, hrest'⟩ := ih hrest d₁ l₁
    exact ⟨d₂, l₂, r.withClock d₁ l₁, hi', hrest'⟩

/-! ### Runs up to the divider's count and the port samples -/

/-- The events, performed one after another from `s`, lead to `t` but for the divider's count and the port samples. -/
def EventRunUpToClock (events : List Instr) (s t : State) : Prop :=
  ∃ u, EventRun events s u ∧ t = u.withClock t.divcnt t.inputs

/-- What only the clock level does is no event. -/
theorem EventRunUpToClock.of_withClock (s : State) (d : Nat) (l : List Ports) :
    EventRunUpToClock [] s (s.withClock d l) := ⟨s, rfl, rfl⟩

/-- An event that may fall on an edge, with the state it leaves where it falls. -/
theorem EventRunUpToClock.of_optional {b : Bool} {i : Instr} {s t : State} (h : b = true → EventStep i s t) :
    EventRunUpToClock (if b then [i] else []) s (if b then t else s) := by
  cases b with
  | false => exact ⟨s, rfl, rfl⟩
  | true => exact ⟨t, ⟨t, h rfl, rfl⟩, rfl⟩

/-- The later events start from what the event level has reached, and the clock level's count and samples do not
matter to them. -/
theorem EventRunUpToClock.append {a b : List Instr} {r s t : State} (h : EventRunUpToClock a r s)
    (h' : EventRunUpToClock b s t) : EventRunUpToClock (a ++ b) r t := by
  obtain ⟨u, hu, hs⟩ := h
  obtain ⟨v, hv, ht⟩ := h'
  obtain ⟨d, l, hv'⟩ := hv.withClock u.divcnt u.inputs
  have hback : s.withClock u.divcnt u.inputs = u := by rw [hs]; rfl
  rw [hback] at hv'
  exact ⟨v.withClock d l, EventRun_append hu hv', ht⟩

/-! ### One edge -/

/-- The tick falls only where the interrupt can be taken (40_tick_clock.md R81, R84). -/
theorem State.ticksEnabled_of_tick {s : State} (h : s.tick = true) : s.ticksEnabled = true := by
  simp only [State.tick, State.expire, Bool.and_eq_true] at h
  obtain ⟨⟨⟨harm, -⟩, htie⟩, hgie⟩ := h
  exact s.ticksEnabled_iff.mpr ⟨harm, htie, hgie⟩

/-- The poll of an edge, where there is one: an event, and `CTL` as before. -/
theorem poll_eventRun {b : Bool} {s t : State} (h : (if b then execStep s else .next s) = .next t) :
    EventRunUpToClock (if b then [.step] else []) s t ∧ t.ctl = s.ctl := by
  cases b with
  | false =>
    cases h
    exact ⟨.of_withClock s s.divcnt s.inputs, rfl⟩
  | true =>
    obtain ⟨o, n, d, k, hstep⟩ := execStep_total s
    obtain rfl := Host.Outcome.next.inj (h.symm.trans hstep)
    exact ⟨⟨_, ⟨_, ⟨.inr (.inl rfl), hstep⟩, rfl⟩, rfl⟩, rfl⟩

/-- An edge performs its events in their order; `DIVCLK` between the poll and the tick moves the divider alone
(43_system.md R138). -/
theorem clkEdge_eventRun {p : Ports} {s t : State} (h : clkEdge p s = .next t) :
    EventRunUpToClock (s.eventsAt p) s t := by
  rw [State.eventsAt_eq]
  cases hr : p.rst with
  | true =>
    obtain rfl := Host.Outcome.next.inj ((clkEdge_reset hr s).symm.trans h)
    exact ⟨_, ⟨_, ⟨.inl rfl, rfl⟩, rfl⟩, rfl⟩
  | false =>
    obtain ⟨s₁, hpoll, hedge⟩ := clkEdge_run hr s
    obtain rfl := Host.Outcome.next.inj (hedge.symm.trans h)
    obtain ⟨poll, hctl⟩ := poll_eventRun hpoll
    have divclk : EventRunUpToClock [] s₁ s₁.advanceDivider := .of_withClock s₁ _ _
    have enabled (htick : s.tick = true) : s₁.advanceDivider.ticksEnabled = true := by
      have hs := State.ticksEnabled_of_tick htick
      simpa only [State.ticksEnabled, State.arm, State.tie, State.gie, State.advanceDivider_ctl, hctl] using hs
    have tick := EventRunUpToClock.of_optional (t := s₁.advanceDivider.takeTick) fun htick =>
      ⟨.inr (.inr (.inr ⟨rfl, enabled htick⟩)), rfl⟩
    have write := EventRunUpToClock.of_optional (b := p.cfgWe) (i := .cfgw p.cfgWdata)
      (s := if s.tick then s₁.advanceDivider.takeTick else s₁.advanceDivider) fun _ =>
      ⟨.inr (.inr (.inl ⟨_, rfl⟩)), rfl⟩
    simpa only [Bool.false_eq_true, if_false, List.append_nil] using ((poll.append divclk).append tick).append write

/-- One step of the machine: the edge's port sample is used up, and the edge performed. -/
theorem step_eventRun {s t : State} (h : step s = .next t) : EventRunUpToClock (s.eventsAt s.ports) s t := by
  rw [step_of_timingOk (timingOk_of_step h)] at h
  exact (EventRunUpToClock.of_withClock s s.divcnt s.inputs.tail).append (clkEdge_eventRun h)

/-! ### The run of the machine -/

/-- What the machine's run does, the events of its edges do. -/
theorem core_run_eventRun {n : Nat} {s t : State} (h : Sys2Proof.core.run n s = .next t) :
    EventRunUpToClock (clockEvents n s) s t := by
  induction n generalizing s with
  | zero =>
    cases h
    exact .of_withClock t t.divcnt t.inputs
  | succ n ih =>
    rw [core_run_succ] at h
    obtain ⟨r, hstep, hrun⟩ := andThen_eq_next.mp h
    simpa only [clockEvents, hstep] using (step_eventRun hstep).append (ih hrun)

/-- Settles O50: every edge is simulated by its events up to the divider's count and the port samples, and so is every
run, since no event reads these two. -/
theorem clockRunsAreEventRuns : Obligations.ClockRunsAreEventRuns :=
  fun _ _ _ h => core_run_eventRun h

/-! ### Configurations the machine refuses -/

/-- Settles O52: the timing check is the three constraints, and past it every edge gives a next state. -/
theorem illFormedTimingIsRefused : Obligations.IllFormedTimingIsRefused := by
  intro s
  constructor
  · intro hrefused hok
    obtain ⟨t, hnext, -, -⟩ := step_total ((Config.timingOk_iff s.cfg).mpr hok)
    cases hrefused.symm.trans hnext
  · intro hbad
    exact if_neg (mt (Config.timingOk_iff s.cfg).mp hbad)

end Sys2Proof.Machine

/-! PROOFS. The registers, the pins and the invariant of the reachable states (10_state.md).

Each event either keeps a register or writes it as its own lemma says; what an edge or a run keeps is then read off
the events of the edge (43_system.md R138). -/

namespace Sys2Proof.Machine

/-! ### The edge a step performs -/

/-- A step that answers is the clock edge of the ports sampled at it. -/
theorem clkEdge_of_step {s t : State} (h : step s = .next t) : clkEdge s.ports s.nextPorts = .next t :=
  (step_of_timingOk (timingOk_of_step h)).symm.trans h

/-- An edge with neither a poll nor `RESET` leaves what belongs to the polling loop: `DIVCLK`, `TINC` and `CFGW` write
none of it. -/
theorem clkEdge_unpolled {p : Ports} (hrst : p.rst = false) (hstep : p.step = false) {s t : State}
    (h : clkEdge p s = .next t) : t.bidx = s.bidx ∧ t.data = s.data ∧ t.out = s.out := by
  obtain ⟨s₁, hpoll, hedge⟩ := clkEdge_run hrst s
  obtain rfl := Host.Outcome.next.inj (hedge.symm.trans h)
  have hs₁ : s = s₁ := by simpa [hstep] using hpoll
  subst hs₁
  dsimp only
  split <;> split <;> exact ⟨rfl, rfl, rfl⟩

/-- An edge with neither a configuration write nor `RESET` leaves `CTL`. -/
theorem clkEdge_ctl_of_no_write {p : Ports} (hrst : p.rst = false) (hwe : p.cfgWe = false) {s t : State}
    (h : clkEdge p s = .next t) : t.ctl = s.ctl := by
  obtain ⟨u, hedge, -, -, hctl, -⟩ := clkEdge_frame hrst s
  obtain rfl := Host.Outcome.next.inj (hedge.symm.trans h)
  simpa [hwe] using hctl

/-- Settles O8: such an edge performs `DIVCLK`, and perhaps `TINC` and `CFGW`. -/
theorem onlyPollsMoveTheSequencer : Obligations.OnlyPollsMoveTheSequencer :=
  fun s _ h hrst hstep => clkEdge_unpolled (s := s.nextPorts) hrst hstep (clkEdge_of_step h)

/-! ### Pins -/

/-- The enable of one of the eight channels is its bit of `CTL` (10_state.md R21). -/
theorem State.oe_fin (s : State) (c : Fin 8) : s.oe c = s.ctl.getLsbD c := by
  simp only [State.oe, c.isLt, decide_true, Bool.true_and]

theorem State.pin_of_enabled {s : State} {c : Fin 8} (h : s.ctl.getLsbD c = true) (p : Fin 8) :
    s.pin c p = PinLevel.ofBool (s.out.getLsbD c) :=
  if_pos ((s.oe_fin c).trans h)

theorem State.pin_of_disabled {s : State} {c : Fin 8} (h : s.ctl.getLsbD c = false) (p : Fin 8) :
    s.pin c p = .z :=
  if_neg (Bool.eq_false_iff.mp ((s.oe_fin c).trans h))

/-- The pins are a function of `OUT` and `CTL` (10_state.md R35). -/
theorem State.pin_congr {s t : State} (hout : t.out = s.out) (hctl : t.ctl = s.ctl) (c p : Fin 8) :
    t.pin c p = s.pin c p := by
  unfold State.pin State.oe
  rw [hout, hctl]

/-- Settles O4: the three cases of an enable and a level; no pin number enters. -/
theorem pinsCarryOutWhereEnabled : Obligations.PinsCarryOutWhereEnabled := by
  intro s c p
  refine ⟨fun hoe hhigh => ?_, fun hoe hlow => ?_, fun hoe => State.pin_of_disabled hoe p, fun _ => rfl⟩
  · rw [State.pin_of_enabled hoe, hhigh, PinLevel.ofBool, if_pos rfl]
  · rw [State.pin_of_enabled hoe, hlow, PinLevel.ofBool, if_neg Bool.false_ne_true]

/-- Settles O5: an edge with no strobe leaves `OUT` and `CTL`, and so does `TINC`. -/
theorem ticksNeverMoveThePins : Obligations.TicksNeverMoveThePins := by
  constructor
  · intro s t h hrst hstep hwe
    have hedge := clkEdge_of_step h
    obtain ⟨-, -, hout⟩ := clkEdge_unpolled (s := s.nextPorts) hrst hstep hedge
    exact State.pin_congr hout (clkEdge_ctl_of_no_write (s := s.nextPorts) hrst hwe hedge)
  · intro s t h
    obtain rfl : s.takeTick = t := Host.Outcome.next.inj h
    exact State.pin_congr s.takeTick_out s.takeTick_ctl

/-! ### The control register -/

/-- `RENDER` under another `CTL`: every arm drives `OUT` without reading an enable. -/
theorem render_writeCtl (b : BytePos) (t : Nat) (s : State) (v : CtlWord) :
    render b t (s.writeCtl v) = andThen (render b t s) fun u => .next (u.writeCtl v) := by
  unfold render
  split <;> rfl

/-- `SEQ` under another `CTL`: the same threshold, and arms that neither read nor write it. -/
theorem seq_writeCtl (b : BytePos) (t : Nat) (s : State) (v : CtlWord) :
    seq b t (s.writeCtl v) = andThen (seq b t s) fun u => .next (u.writeCtl v) := by
  cases b <;> simp only [seq, andThen_ite] <;> rfl

/-- `STEP` neither reads nor writes `CTL`. -/
theorem execStep_writeCtl {s t : State} (h : execStep s = .next t) (v : CtlWord) :
    execStep (s.writeCtl v) = .next (t.writeCtl v) := by
  obtain ⟨r, hrender, hseq⟩ := andThen_eq_next.mp h
  refine andThen_eq_next.mpr ⟨r.writeCtl v, ?_, ?_⟩
  · exact (render_writeCtl s.bidx s.tcnt s v).trans (by rw [hrender, andThen_next])
  · exact (seq_writeCtl s.bidx s.tcnt r v).trans (by rw [hseq, andThen_next])

/-- Settles O6: `STEP` always answers, and commutes with a change of `CTL`. -/
theorem disabledChannelsAreRenderedAlike : Obligations.DisabledChannelsAreRenderedAlike := by
  intro s v
  obtain ⟨o, b, d, k, h⟩ := execStep_total s
  exact ⟨_, h, execStep_writeCtl h v⟩

/-- Settles O7: `STEP` writes four other registers, and each remaining operation is one named write of another
register, or none. -/
theorem onlyHostOperationsWriteControl : Obligations.OnlyHostOperationsWriteControl := by
  intro i s t h hreset hcfgw
  cases i
  case reset => exact absurd rfl hreset
  case cfgw v => exact absurd rfl (hcfgw v)
  case step =>
    obtain ⟨o, b, d, k, hstep⟩ := execStep_total s
    obtain rfl := Host.Outcome.next.inj (hstep.symm.trans h)
    rfl
  all_goals
    obtain rfl := Host.Outcome.next.inj h
    rfl

/-! ### The parameters -/

theorem step_cfg {s t : State} (h : step s = .next t) : t.cfg = s.cfg := by
  obtain ⟨u, hu, hcfg, -⟩ := step_total (timingOk_of_step h)
  obtain rfl := Host.Outcome.next.inj (hu.symm.trans h)
  exact hcfg

/-- Settles O9, by induction on the number of steps. -/
theorem parametersNeverChange : Obligations.ParametersNeverChange := by
  intro n
  induction n with
  | zero =>
    intro s t h
    rw [Host.Outcome.next.inj ((core_run_zero s).symm.trans h)]
  | succ n ih =>
    intro s t h
    obtain ⟨r, hstep, hrun⟩ := andThen_eq_next.mp ((core_run_succ n s).symm.trans h)
    exact (ih r t hrun).trans (step_cfg hstep)

/-! ### The reset state -/

/-- Settles O1: each register of `State.resetOf`, which `State.reset` applies to its own parameters. -/
theorem resetStateHoldsStatedValues : Obligations.ResetStateHoldsStatedValues :=
  ⟨fun _ => ⟨rfl, rfl, rfl, rfl, rfl, rfl⟩, rfl, rfl, rfl, rfl, rfl, rfl⟩

/-- The reset values meet the invariant wherever `DIVCNT` has a range at all. -/
theorem State.resetOf_inv {c : Config} (hdiv : 1 ≤ c.div) : (State.resetOf c).Inv :=
  ⟨Nat.two_pow_pos c.width, hdiv, rfl⟩

/-- Settles O10: well-formed timing has `DIV >= 1`, and the OPEN parameters of `State.reset` have well-formed timing. -/
theorem invariantHoldsAtReset : Obligations.InvariantHoldsAtReset := by
  have hreset (c : Config) (hc : c.timingOk = true) : (State.resetOf c).Inv := by
    obtain ⟨hdiv, -, -⟩ := (Config.timingOk_iff c).mp hc
    exact State.resetOf_inv hdiv
  exact ⟨hreset, hreset _ Config.openInstance_timingOk⟩

/-! ### Every operation keeps the invariant (10_state.md R30) -/

theorem State.Inv.div_pos {s : State} (h : s.Inv) : 1 ≤ s.cfg.div := by
  obtain ⟨-, hdiv, -⟩ := h
  exact Nat.one_le_of_lt hdiv

theorem State.Inv.resetRegisters {s : State} (h : s.Inv) : s.resetRegisters.Inv :=
  ⟨Nat.two_pow_pos s.cfg.width, h.div_pos, rfl⟩

theorem State.Inv.nextPorts {s : State} (h : s.Inv) : s.nextPorts.Inv := h

theorem State.Inv.writeCtl {s : State} (h : s.Inv) (v : CtlWord) : (s.writeCtl v).Inv := h

/-- The increment wraps within the width of `TCNT`. -/
theorem State.Inv.takeTick {s : State} (h : s.Inv) : s.takeTick.Inv := by
  obtain ⟨-, hdiv, hdata⟩ := h
  exact ⟨Nat.mod_lt _ (Nat.two_pow_pos s.cfg.width), hdiv, hdata⟩

/-- The divider reloads at `DIV - 1`, so a count below `DIV` stays below it. -/
theorem State.Inv.advanceDivider {s : State} (h : s.Inv) : s.advanceDivider.Inv := by
  have hpos := h.div_pos
  obtain ⟨htcnt, hdiv, hdata⟩ := h
  refine ⟨htcnt, ?_, hdata⟩
  simp only [State.advanceDivider_divcnt, State.advanceDivider_cfg, reloadOf_of_pos hpos, beq_iff_eq]
  split
  · split <;> omega
  · exact hpos

/-- Beginning a byte clears `TCNT`; the payload must be the byte's own. -/
theorem State.Inv.beginByte {s : State} (h : s.Inv) (n : BytePos) :
    (s.beginByte n (payloadOf s.cfg n)).Inv := by
  obtain ⟨-, hdiv, -⟩ := h
  exact ⟨Nat.two_pow_pos s.cfg.width, hdiv, rfl⟩

/-- `RESTART` leaves `DATA`; at `BIDX` 0 and 5 the payload is the same zero. -/
theorem State.Inv.restartCycle {s : State} (h : s.Inv) (hb : s.bidx = .b0) : s.restartCycle.Inv := by
  obtain ⟨htcnt, hdiv, hdata⟩ := h
  rw [hb] at hdata
  exact ⟨htcnt, hdiv, hdata⟩

/-- What `SEQ` can do: hold, restart from the identification byte, or begin a byte with its own payload. -/
theorem seq_cases (b : BytePos) (t : Nat) (s : State) :
    seq b t s = .next s ∨ (b = .b0 ∧ seq b t s = .next s.restartCycle) ∨
      ∃ n, seq b t s = .next (s.beginByte n (payloadOf s.cfg n)) := by
  cases hexp : expOf s.cfg b t with
  | false => exact .inl (seq_hold s hexp)
  | true =>
    have hthreshold : thresholdOf s.cfg b ≤ t := of_decide_eq_true hexp
    by_cases hb : b = .b0
    · subst hb
      exact .inr (.inl ⟨rfl, seq_restart s hthreshold⟩)
    · rw [thresholdOf, if_neg (mt (identOf_iff b).mp hb)] at hthreshold
      obtain ⟨n, -, hn⟩ := seq_advance s hb hthreshold
      exact .inr (.inr ⟨n, hn⟩)

/-- `RENDER` writes `OUT`, of which the invariant says nothing; each of the three things `SEQ` can do keeps it. -/
theorem execStep_keeps_inv {s t : State} (hinv : s.Inv) (h : execStep s = .next t) : t.Inv := by
  obtain ⟨r, hrender, hseq⟩ := andThen_eq_next.mp h
  obtain ⟨o, ho⟩ := render_total s.bidx s.tcnt s
  obtain rfl := Host.Outcome.next.inj (ho.symm.trans hrender)
  have hr : State.Inv { s with out := o } := hinv
  obtain hcase | ⟨hb, hcase⟩ | ⟨n, hcase⟩ := seq_cases s.bidx s.tcnt { s with out := o } <;>
    obtain rfl := Host.Outcome.next.inj (hcase.symm.trans hseq)
  · exact hr
  · exact hr.restartCycle hb
  · exact hr.beginByte n

/-- `RESET` establishes the invariant; without it the poll, `DIVCLK`, the tick and the write keep it in turn. -/
theorem clkEdge_keeps_inv {p : Ports} {s t : State} (hinv : s.Inv) (h : clkEdge p s = .next t) : t.Inv := by
  cases hrst : p.rst with
  | true =>
    obtain rfl := Host.Outcome.next.inj ((clkEdge_reset hrst s).symm.trans h)
    exact hinv.resetRegisters
  | false =>
    obtain ⟨s₁, hpoll, hedge⟩ := clkEdge_run hrst s
    obtain rfl := Host.Outcome.next.inj (hedge.symm.trans h)
    have h₁ : s₁.Inv := by
      split at hpoll
      · exact execStep_keeps_inv hinv hpoll
      · exact Host.Outcome.next.inj hpoll ▸ hinv
    have h₂ := h₁.advanceDivider
    have h₃ : (if s.tick then s₁.advanceDivider.takeTick else s₁.advanceDivider).Inv := by
      split
      · exact h₂.takeTick
      · exact h₂
    dsimp only
    split
    · exact h₃.writeCtl p.cfgWdata
    · exact h₃

/-- Settles O11: a step is one clock edge, and every edge keeps the invariant. -/
theorem everyStepKeepsInvariant : Obligations.EveryStepKeepsInvariant :=
  fun _ _ hinv h => clkEdge_keeps_inv hinv.nextPorts (clkEdge_of_step h)

end Sys2Proof.Machine

/-! PROOFS. The two read-only tables (20_memory.md). -/

namespace Sys2Proof.Machine

/-- The bit slice `DEVID[8*j+7 : 8*j]` as a number; past `j = 3`, where the spec reads nothing, both sides are zero. -/
theorem idByte_toNat (cfg : Config) (j : Nat) :
    (idByte cfg j).toNat = cfg.devid.toNat / 2 ^ (8 * j) % 256 := by
  rw [idByte, BitVec.extractLsb'_toNat, Nat.shiftRight_eq_div_pow]

/-- Settles O2: the slice is a shift and a remainder, whatever the index. -/
theorem idByteIsByteOfDeviceIdentifier : Obligations.IdByteIsByteOfDeviceIdentifier :=
  fun cfg j _ => idByte_toNat cfg j

/-- Settles O3: `Pattern` is that bit of `CIT` by definition, and `Column(k)` lists the eight rows from row 0 up. -/
theorem columnCollectsOneBitOfEveryRow : Obligations.ColumnCollectsOneBitOfEveryRow :=
  fun cfg _ k hc _ => ⟨rfl, column_getLsbD cfg k hc⟩

end Sys2Proof.Machine

/-! PROOFS. The encodings (30_encoding.md).

A key is put together from its fields, so what a decoder does is read off field by field: for each of the two tables one
lemma says everything the decoder can do with a key, and that the encoder gives the same key back. -/

namespace Sys2Proof

/-! ### Fields of a key -/

theorem getLsbD_ofBool_zero (b : Bool) : (BitVec.ofBool b).getLsbD 0 = b := by cases b <;> rfl

theorem getLsbD_zero_append_ofBool {w : Nat} (x : BitVec w) (b : Bool) : (x ++ BitVec.ofBool b).getLsbD 0 = b := by
  rw [BitVec.getLsbD_append, if_pos Nat.zero_lt_one, getLsbD_ofBool_zero]

theorem getLsbD_succ_append_ofBool {w : Nat} (x : BitVec w) (b : Bool) (n : Nat) :
    (x ++ BitVec.ofBool b).getLsbD (n + 1) = x.getLsbD n := by
  rw [BitVec.getLsbD_append, if_neg (by omega), Nat.add_sub_cancel]

theorem ofBool_getLsbD_eq_extractLsb' {w : Nat} (x : BitVec w) (i : Nat) :
    BitVec.ofBool (x.getLsbD i) = x.extractLsb' i 1 := by
  ext j hj
  obtain rfl : j = 0 := by omega
  simp

/-- A render key is `{IDENT, SLOT}` of its own fields (30_encoding.md R61). -/
theorem renderKey_eq_fields (rk : RenderKey) :
    rk = BitVec.ofBool (rk.getLsbD 4) ++ BitVec.ofNat 4 (rk.extractLsb' 0 4).toNat := by
  rw [ofBool_getLsbD_eq_extractLsb', BitVec.ofNat_toNat, BitVec.setWidth_eq]
  exact (BitVec.extractLsb'_append_extractLsb' (w := 1) (len := 4)).symm

/-- A sequencer key is `{BIDX, EXP}` of its own fields (30_encoding.md R62). -/
theorem seqKey_eq_fields (qk : SeqKey) :
    qk = BitVec.ofNat 3 (qk.extractLsb' 1 3).toNat ++ BitVec.ofBool (qk.getLsbD 0) := by
  rw [ofBool_getLsbD_eq_extractLsb', BitVec.ofNat_toNat, BitVec.setWidth_eq]
  exact (BitVec.extractLsb'_append_extractLsb' (w := 3) (len := 1)).symm

/-! ### What the two key decoders can do -/

/-- A render key with a legal `SLOT` selects an operation whose key it is, any other is rejected by name
(30_encoding.md R68, R70). -/
theorem decodeRender_cases (rk : RenderKey) :
    ((rk.extractLsb' 0 4).toNat ≤ 9 ∧ ∃ i, decodeRender rk = .ok i ∧ encode i = .render rk) ∨
      (9 < (rk.extractLsb' 0 4).toNat ∧ decodeRender rk = .error (.slot (rk.extractLsb' 0 4))) := by
  have hfields := renderKey_eq_fields rk
  unfold decodeRender
  generalize (rk.extractLsb' 0 4).toNat = slot at hfields ⊢
  generalize rk.getLsbD 4 = ident at hfields ⊢
  rcases Nat.lt_or_ge 9 slot with hslot | hslot
  · refine .inr ⟨hslot, ?_⟩
    split
    case h_19 => rfl
    all_goals omega
  · refine .inl ⟨hslot, ?_⟩
    subst hfields
    interval_cases slot <;> cases ident <;> exact ⟨_, rfl, rfl⟩

/-- A sequencer key with a legal `BIDX` selects an operation whose key it is, any other is rejected by name
(30_encoding.md R69, R70). -/
theorem decodeSeq_cases (qk : SeqKey) :
    ((qk.extractLsb' 1 3).toNat ≤ 5 ∧ ∃ i, decodeSeq qk = .ok i ∧ encode i = .seq qk) ∨
      (5 < (qk.extractLsb' 1 3).toNat ∧ decodeSeq qk = .error (.bytePos (qk.extractLsb' 1 3))) := by
  have hfields := seqKey_eq_fields qk
  unfold decodeSeq
  generalize (qk.extractLsb' 1 3).toNat = pos at hfields ⊢
  generalize qk.getLsbD 0 = exp at hfields ⊢
  rcases Nat.lt_or_ge 5 pos with hpos | hpos
  · refine .inr ⟨hpos, ?_⟩
    split
    case h_13 => rfl
    all_goals omega
  · refine .inl ⟨hpos, ?_⟩
    subst hfields
    interval_cases pos <;> cases exp <;> exact ⟨_, rfl, rfl⟩

theorem decodeRender_eq_ok {rk : RenderKey} {i : Instr} (h : decodeRender rk = .ok i) :
    (rk.extractLsb' 0 4).toNat ≤ 9 ∧ encode i = .render rk := by
  obtain ⟨hslot, j, hj, hencode⟩ | ⟨-, herror⟩ := decodeRender_cases rk
  · obtain rfl := Except.ok.inj (hj.symm.trans h)
    exact ⟨hslot, hencode⟩
  · cases herror.symm.trans h

theorem decodeSeq_eq_ok {qk : SeqKey} {i : Instr} (h : decodeSeq qk = .ok i) :
    (qk.extractLsb' 1 3).toNat ≤ 5 ∧ encode i = .seq qk := by
  obtain ⟨hpos, j, hj, hencode⟩ | ⟨-, herror⟩ := decodeSeq_cases qk
  · obtain rfl := Except.ok.inj (hj.symm.trans h)
    exact ⟨hpos, hencode⟩
  · cases herror.symm.trans h

/-- Settles O13: each table is its own inverse on the keys it accepts. -/
theorem encodeOfDecodeIsTheKey : Obligations.EncodeOfDecodeIsTheKey := by
  refine ⟨fun rk i h => ?_, fun qk i h => ?_⟩
  · obtain ⟨-, hencode⟩ := decodeRender_eq_ok h
    exact hencode
  · obtain ⟨-, hencode⟩ := decodeSeq_eq_ok h
    exact hencode

/-- Settles O14: the accepted and the rejected keys are told apart by the one field each error names. -/
theorem reservedKeysAreRejectedByName : Obligations.ReservedKeysAreRejectedByName := by
  constructor
  · intro rk
    obtain ⟨hslot, i, hi, -⟩ | ⟨hslot, herror⟩ := decodeRender_cases rk
    · simp only [hi, reduceCtorEq, iff_false, Nat.not_lt, hslot]
    · exact iff_of_true hslot herror
  · intro qk
    obtain ⟨hpos, i, hi, -⟩ | ⟨hpos, herror⟩ := decodeSeq_cases qk
    · simp only [hi, reduceCtorEq, iff_false, Nat.not_lt, hpos]
    · exact iff_of_true hpos herror

/-! ### Event vectors -/

/-- Settles O17: each bit of the vector is read back from its place, and decides its own event. -/
theorem eventVectorSelectsInOrder : Obligations.EventVectorSelectsInOrder := by
  intro rst cfgWe poll tick v
  simp only [decodeEvents, getLsbD_succ_append_ofBool, getLsbD_zero_append_ofBool, getLsbD_ofBool_zero]

theorem decode_event (rst cfgWe poll tick : Bool) (v : CtlWord) :
    decode (.event (BitVec.ofBool rst ++ BitVec.ofBool cfgWe ++ BitVec.ofBool poll ++ BitVec.ofBool tick) v) =
      .ok (if rst then [.reset]
        else (if poll then [Instr.step] else []) ++ [.divclk] ++ (if tick then [Instr.tinc] else []) ++
          (if cfgWe then [.cfgw v] else [])) :=
  congrArg Except.ok (eventVectorSelectsInOrder rst cfgWe poll tick v)

/-! ### Decoding what the encoder writes -/

theorem decode_render {rk : RenderKey} {i : Instr} (h : decodeRender rk = .ok i) : decode (.render rk) = .ok [i] := by
  simp only [decode, h]

theorem decode_seq {qk : SeqKey} {i : Instr} (h : decodeSeq qk = .ok i) : decode (.seq qk) = .ok [i] := by
  simp only [decode, h]

theorem decodeRender_start (ident : Bool) : decodeRender (BitVec.ofBool ident ++ 0b0000#4) = .ok (.start ident) := by
  cases ident <;> rfl

theorem decodeRender_stop (ident : Bool) : decodeRender (BitVec.ofBool ident ++ 0b1001#4) = .ok (.stop ident) := by
  cases ident <;> rfl

theorem decodeSeq_holdLow (pos : BitVec 2) : decodeSeq (0b0#1 ++ pos ++ 0b0#1) = .ok (.holdLow pos) := by
  decide +revert

theorem decodeSeq_holdHigh (five : Bool) :
    decodeSeq (0b10#2 ++ BitVec.ofBool five ++ 0b0#1) = .ok (.holdHigh five) := by
  cases five <;> rfl

/-- Settles O12: an event's vector has that event's bit alone; the rows with an open bit decode for every operand, the
others are fixed words. -/
theorem decodeOfEncodeIsTheOperation : Obligations.DecodeOfEncodeIsTheOperation := by
  intro i
  cases i with
  | reset => exact decode_event true false false false 0
  | divclk => exact decode_event false false false false 0
  | tinc => exact decode_event false false false true 0
  | step => exact decode_event false false true false 0
  | cfgw v => exact decode_event false true false false v
  | start ident => exact decode_render (decodeRender_start ident)
  | stop ident => exact decode_render (decodeRender_stop ident)
  | dbit0 | dbit1 | dbit2 | dbit3 | dbit4 | dbit5 | dbit6 | dbit7 => exact decode_render rfl
  | mux0 | mux1 | mux2 | mux3 | mux4 | mux5 | mux6 | mux7 => exact decode_render rfl
  | holdLow pos => exact decode_seq (decodeSeq_holdLow pos)
  | holdHigh five => exact decode_seq (decodeSeq_holdHigh five)
  | adv4 | adv3 | adv2 | adv1 | adv0 | restart => exact decode_seq rfl

/-- Settles O18: the rows with an open bit by their lemmas, the other words by evaluation. -/
theorem writtenOutWordsDecode : Obligations.WrittenOutWordsDecode :=
  ⟨decodeRender_start true, rfl, rfl, decodeRender_stop false, decodeSeq_holdLow 3, decodeSeq_holdHigh true, rfl, rfl,
    rfl, rfl, rfl, rfl, rfl, rfl⟩

/-! ### The rows of the opcode table (30_encoding.md R71)

A key that has the fixed bits of a row selects an operation of that row: where the mask covers the whole key it is the
row's one key, elsewhere only the operand is open. -/

open Laws.EncodesToRow in
/-- The per-operation law for all operations at once. -/
theorem encodesToRow : ∀ i : Instr, Statement i
  | .reset => reset
  | .divclk => divclk
  | .tinc => tinc
  | .step => step
  | .cfgw v => cfgw v
  | .start ident => start ident
  | .dbit0 => dbit0
  | .dbit1 => dbit1
  | .dbit2 => dbit2
  | .dbit3 => dbit3
  | .dbit4 => dbit4
  | .dbit5 => dbit5
  | .dbit6 => dbit6
  | .dbit7 => dbit7
  | .mux0 => mux0
  | .mux1 => mux1
  | .mux2 => mux2
  | .mux3 => mux3
  | .mux4 => mux4
  | .mux5 => mux5
  | .mux6 => mux6
  | .mux7 => mux7
  | .stop ident => stop ident
  | .holdLow pos => holdLow pos
  | .holdHigh five => holdHigh five
  | .adv4 => adv4
  | .adv3 => adv3
  | .adv2 => adv2
  | .adv1 => adv1
  | .adv0 => adv0
  | .restart => restart

theorem renderKey_matches_row {rk : RenderKey} {i : Instr} (h : decodeRender rk = .ok i) :
    rk.toNat &&& i.row.mask = i.row.pattern := by
  obtain ⟨-, hencode⟩ := decodeRender_eq_ok h
  obtain ⟨-, hbits⟩ := encodesToRow i
  rwa [hencode] at hbits

theorem seqKey_matches_row {qk : SeqKey} {i : Instr} (h : decodeSeq qk = .ok i) :
    qk.toNat &&& i.row.mask = i.row.pattern := by
  obtain ⟨-, hencode⟩ := decodeSeq_eq_ok h
  obtain ⟨-, hbits⟩ := encodesToRow i
  rwa [hencode] at hbits

theorem eq_ofNat_of_full_mask {w p : Nat} {x : BitVec w} (h : x.toNat &&& (2 ^ w - 1) = p) : x = BitVec.ofNat w p := by
  rw [← h, Nat.and_two_pow_sub_one_of_lt_two_pow x.isLt, BitVec.ofNat_toNat, BitVec.setWidth_eq]

/-- The mask of `START` and `STOP` leaves `IDENT` open. -/
theorem renderKey_eq_of_slot_mask {rk : RenderKey} {p : Nat} (h : rk.toNat &&& 0x0F = p) :
    rk = BitVec.ofBool (rk.getLsbD 4) ++ BitVec.ofNat 4 p := by
  have hslot : (rk.extractLsb' 0 4).toNat = p := by
    rw [BitVec.extractLsb'_toNat, Nat.shiftRight_zero, ← h]
    exact (Nat.and_two_pow_sub_one_eq_mod rk.toNat 4).symm
  rw [← hslot]
  exact renderKey_eq_fields rk

/-- The mask of `HOLD`'s first row leaves `BIDX[1:0]` open. -/
theorem seqKey_eq_of_holdLow_mask {qk : SeqKey} (h : qk.toNat &&& 0x09 = 0x00) :
    ∃ pos : BitVec 2, qk = 0b0#1 ++ pos ++ 0b0#1 := by
  decide +revert

/-- The mask of `HOLD`'s second row leaves `BIDX[0]` open. -/
theorem seqKey_eq_of_holdHigh_mask {qk : SeqKey} (h : qk.toNat &&& 0x0D = 0x08) :
    ∃ five, qk = 0b10#2 ++ BitVec.ofBool five ++ 0b0#1 := by
  decide +revert

/-- A key with the fixed bits of a render row selects an operation of that row. -/
theorem decodeRender_of_matches {rk rk' : RenderKey} {j : Instr} (hj : decodeRender rk' = .ok j)
    (hm : rk.toNat &&& j.row.mask = j.row.pattern) : ∃ i, decodeRender rk = .ok i ∧ i.row = j.row := by
  unfold decodeRender at hj
  split at hj <;> cases hj
  case h_1 =>
    rw [renderKey_eq_of_slot_mask hm]
    exact ⟨_, decodeRender_start _, rfl⟩
  case h_18 =>
    rw [renderKey_eq_of_slot_mask hm]
    exact ⟨_, decodeRender_stop _, rfl⟩
  all_goals
    obtain rfl := eq_ofNat_of_full_mask hm
    exact ⟨_, rfl, rfl⟩

/-- A key with the fixed bits of a sequencer row selects an operation of that row. -/
theorem decodeSeq_of_matches {qk qk' : SeqKey} {j : Instr} (hj : decodeSeq qk' = .ok j)
    (hm : qk.toNat &&& j.row.mask = j.row.pattern) : ∃ i, decodeSeq qk = .ok i ∧ i.row = j.row := by
  unfold decodeSeq at hj
  split at hj <;> cases hj
  case h_1 | h_2 | h_3 | h_4 =>
    obtain ⟨pos, rfl⟩ := seqKey_eq_of_holdLow_mask hm
    exact ⟨_, decodeSeq_holdLow pos, rfl⟩
  case h_5 | h_6 =>
    obtain ⟨five, rfl⟩ := seqKey_eq_of_holdHigh_mask hm
    exact ⟨_, decodeSeq_holdHigh five, rfl⟩
  all_goals
    obtain rfl := eq_ofNat_of_full_mask hm
    exact ⟨_, rfl, rfl⟩

/-- Settles O15: a key selects one operation, so a second row it matches is that operation's row; and its own row it
matches, as the encoder gives the key back. -/
theorem eachKeyMatchesOneRow : Obligations.EachKeyMatchesOneRow := by
  constructor
  · intro rk rk' i j hi hj
    refine ⟨fun hm => ?_, fun hrow => hrow ▸ renderKey_matches_row hi⟩
    obtain ⟨i', hi', hrow⟩ := decodeRender_of_matches hj hm
    rw [← hrow, Except.ok.inj (hi'.symm.trans hi)]
  · intro qk qk' i j hi hj
    refine ⟨fun hm => ?_, fun hrow => hrow ▸ seqKey_matches_row hi⟩
    obtain ⟨i', hi', hrow⟩ := decodeSeq_of_matches hj hm
    rw [← hrow, Except.ok.inj (hi'.symm.trans hi)]

namespace Machine

/-! ### The step word of a state (30_encoding.md R64) -/

theorem State.slot_le (s : State) : s.slot ≤ 9 := Nat.min_le_right s.tcnt 9

/-- `IDENT = 1` exactly at the code 0, so the step word needs no bit for it. -/
theorem posCode_beq_zero (b : BytePos) : (posCode b == 0) = identOf b := by
  cases b <;> rfl

theorem State.stepWord_bidx (s : State) : s.stepWord.extractLsb' 5 3 = posCode s.bidx :=
  (BitVec.extractLsb'_append_eq_of_le (by decide)).trans BitVec.extractLsb'_append_eq_left

theorem State.stepWord_exp (s : State) : s.stepWord.getLsbD 4 = s.exp :=
  BitVec.getLsbD_append.trans (getLsbD_zero_append_ofBool (posCode s.bidx) s.exp)

theorem State.stepWord_slot (s : State) : s.stepWord.extractLsb' 0 4 = BitVec.ofNat 4 s.slot :=
  BitVec.extractLsb'_append_eq_right

theorem State.stepWord_seqKey (s : State) : s.stepWord.seqKey = s.seqKey :=
  BitVec.extractLsb'_append_eq_left

theorem State.stepWord_renderKey (s : State) : s.stepWord.renderKey = s.renderKey := by
  rw [StepWord.renderKey, s.stepWord_bidx, s.stepWord_slot, posCode_beq_zero]
  rfl

/-- Settles O16: the fields are the parts the word is put together from, and `SLOT` fits its four bits. -/
theorem stepWordCarriesBothKeys : Obligations.StepWordCarriesBothKeys := by
  intro s
  refine ⟨s.stepWord_bidx, s.stepWord_exp, ?_, s.stepWord_seqKey, s.stepWord_renderKey⟩
  rw [s.stepWord_slot, BitVec.toNat_ofNat, Nat.mod_eq_of_lt (Nat.lt_of_le_of_lt s.slot_le (by decide))]
  rfl

/-! ### Where a key is placed (log 10) -/

theorem posOfCode_of_legal {code : BitVec 3} (h : code.toNat ≤ 5) :
    ∃ b, posOfCode code = some b ∧ posCode b = BitVec.ofNat 3 code.toNat := by
  unfold posOfCode
  generalize code.toNat = n at h ⊢
  interval_cases n <;> exact ⟨_, rfl, rfl⟩

theorem thresholdOf_pos {c : Config} (h : c.timingOk = true) (b : BytePos) : 0 < thresholdOf c b := by
  obtain ⟨-, hbyte, -⟩ := (Config.timingOk_iff c).mp h
  have hpos : 0 < c.byteTicks := Nat.lt_of_lt_of_le (by decide) hbyte
  unfold thresholdOf Config.restartTicks
  split <;> omega

/-- The offset `placeSeq` takes: at the threshold `EXP` is 1, and at offset 0, below every threshold, it is 0. -/
theorem expOf_placed {c : Config} (h : c.timingOk = true) (b : BytePos) (exp : Bool) :
    expOf c b (if exp then thresholdOf c b else 0) = exp := by
  cases exp with
  | false => exact decide_eq_false (Nat.not_le.mpr (thresholdOf_pos h b))
  | true => exact decide_eq_true (Nat.le_refl _)

theorem State.placeRender_ident (s : State) (rk : RenderKey) : (s.placeRender rk).ident = rk.getLsbD 4 := by
  by_cases hfits : rk.getLsbD 4 = s.ident
  · exact (congrArg identOf (if_pos hfits)).trans hfits.symm
  · refine (congrArg identOf (if_neg hfits)).trans ?_
    cases rk.getLsbD 4 <;> rfl

theorem State.placeRender_slot (s : State) {rk : RenderKey} (h : (rk.extractLsb' 0 4).toNat ≤ 9) :
    (s.placeRender rk).slot = (rk.extractLsb' 0 4).toNat :=
  Nat.min_eq_left h

theorem State.placeSeq_of_pos (s : State) {qk : SeqKey} {b : BytePos}
    (h : posOfCode (qk.extractLsb' 1 3) = some b) :
    s.placeSeq qk = (s.placeAt b (if qk.getLsbD 0 then thresholdOf s.cfg b else 0)).pushPorts Ports.poll := by
  unfold State.placeSeq
  rw [h]
  rfl

/-- Settles O19: the placed state has the key's fields, and a key is its fields; a key that selects an operation has
legal ones. -/
theorem placedKeyIsTheKeySelected : Obligations.PlacedKeyIsTheKeySelected := by
  constructor
  · intro s rk i h
    obtain ⟨hslot, -⟩ := decodeRender_eq_ok h
    refine ⟨?_, rfl⟩
    rw [State.renderKey, s.placeRender_ident, s.placeRender_slot hslot]
    exact (renderKey_eq_fields rk).symm
  · intro s qk i htiming h
    obtain ⟨hpos, -⟩ := decodeSeq_eq_ok h
    obtain ⟨b, hb, hcode⟩ := posOfCode_of_legal hpos
    rw [s.placeSeq_of_pos hb]
    refine ⟨?_, rfl⟩
    calc ((s.placeAt b (if qk.getLsbD 0 then thresholdOf s.cfg b else 0)).pushPorts Ports.poll).seqKey
      _ = posCode b ++ BitVec.ofBool (expOf s.cfg b (if qk.getLsbD 0 then thresholdOf s.cfg b else 0)) := rfl
      _ = BitVec.ofNat 3 (qk.extractLsb' 1 3).toNat ++ BitVec.ofBool (qk.getLsbD 0) := by
        rw [hcode, expOf_placed htiming]
      _ = qk := (seqKey_eq_fields qk).symm

end Machine

end Sys2Proof

/-! PROOFS. The Tick Clock (40_tick_clock.md).

Armed, `DIVCLK` counts modulo `DIV`, whatever else falls on an edge; so the count after any number of armed edges, and
with it every edge that ticks, is known from the count at the first. -/

namespace Sys2Proof.Machine

/-! ### `TINC` and `DIVCLK` (R81, R82) -/

/-- Settles O20: the largest value of `W` bits is one below the modulus. -/
theorem tincIncrementsModuloWidth : Obligations.TincIncrementsModuloWidth := by
  refine fun s => ⟨rfl, fun hmax => ?_⟩
  have hwrap : (s.tcnt + 1) % 2 ^ s.cfg.width = 0 := by
    rw [hmax, Nat.sub_add_cancel (Nat.two_pow_pos s.cfg.width), Nat.mod_self]
  exact congrArg (fun t => Host.Outcome.next { s with tcnt := t }) hwrap

theorem execDivclk_eq (s : State) : execDivclk s = .next { s with divcnt := s.advanceDivider.divcnt } := rfl

theorem State.expire_iff (s : State) : s.expire = true ↔ s.arm = true ∧ s.divcnt = reloadOf s.cfg := by
  rw [State.expire, Bool.and_eq_true, beq_iff_eq]

theorem State.advanceDivider_unarmed {s : State} (harm : s.arm = false) : s.advanceDivider.divcnt = 0 := by
  rw [State.advanceDivider_divcnt, harm]
  rfl

theorem State.advanceDivider_reload {s : State} (h : s.divcnt = reloadOf s.cfg) : s.advanceDivider.divcnt = 0 := by
  rw [State.advanceDivider_divcnt, h, beq_self_eq_true, if_pos rfl, ite_self]

theorem State.advanceDivider_count {s : State} (harm : s.arm = true) (h : s.divcnt ≠ reloadOf s.cfg) :
    s.advanceDivider.divcnt = s.divcnt + 1 := by
  rw [State.advanceDivider_divcnt, if_pos harm, if_neg (mt beq_iff_eq.mp h)]

/-- Settles O21: the three cases of the divider's advance, each with its wire `expire`. -/
theorem divclkHoldsReloadsOrCounts : Obligations.DivclkHoldsReloadsOrCounts := by
  intro s
  refine ⟨fun harm => ⟨?_, ?_⟩, reloadOf_of_pos, fun harm hreload => ⟨?_, s.expire_iff.mpr ⟨harm, hreload⟩⟩,
    fun harm hcount => ⟨?_, ?_⟩, rfl⟩
  · exact (execDivclk_eq s).trans (by rw [State.advanceDivider_unarmed harm])
  · exact Bool.eq_false_iff.mpr fun hexpire => Bool.eq_false_iff.mp harm (s.expire_iff.mp hexpire).left
  · exact (execDivclk_eq s).trans (by rw [State.advanceDivider_reload hreload])
  · exact (execDivclk_eq s).trans (by rw [State.advanceDivider_count harm hcount])
  · exact Bool.eq_false_iff.mpr fun hexpire => hcount (s.expire_iff.mp hexpire).right

/-! ### The divider counts modulo `DIV` -/

theorem State.arm_of_ticksEnabled {s : State} (h : s.ticksEnabled = true) : s.arm = true := by
  obtain ⟨harm, -, -⟩ := s.ticksEnabled_iff.mp h
  exact harm

/-- Whether the ticks are enabled is a matter of `CTL` alone. -/
theorem State.ticksEnabled_congr {s t : State} (h : t.ctl = s.ctl) : t.ticksEnabled = s.ticksEnabled := by
  unfold State.ticksEnabled State.arm State.tie State.gie
  rw [h]

@[simp] theorem State.resetRegisters_ticksEnabled (s : State) : s.resetRegisters.ticksEnabled = false := by
  simp only [State.ticksEnabled, State.arm, State.resetRegisters_ctl, BitVec.ofNat_eq_ofNat, BitVec.getLsbD_zero,
    Bool.false_and]

theorem State.advanceDivider_mod {s : State} (harm : s.arm = true) (hlt : s.divcnt < s.cfg.div) :
    s.advanceDivider.divcnt = (s.divcnt + 1) % s.cfg.div := by
  have hreload := reloadOf_of_pos (Nat.one_le_of_lt hlt)
  by_cases h : s.divcnt = reloadOf s.cfg
  · have hlast : s.divcnt + 1 = s.cfg.div := by omega
    rw [State.advanceDivider_reload h, hlast, Nat.mod_self]
  · rw [State.advanceDivider_count harm h, Nat.mod_eq_of_lt (by omega)]

theorem State.advanceDivider_divcnt_lt {s : State} (hlt : s.divcnt < s.cfg.div) :
    s.advanceDivider.divcnt < s.cfg.div := by
  cases harm : s.arm with
  | false =>
    rw [State.advanceDivider_unarmed harm]
    exact Nat.zero_lt_of_lt hlt
  | true =>
    rw [State.advanceDivider_mod harm hlt]
    exact Nat.mod_lt _ (Nat.zero_lt_of_lt hlt)

/-- Armed and enabled, an edge ticks exactly at the divider's last count. -/
theorem State.tick_iff {s : State} (hdiv : 1 ≤ s.cfg.div) (h : s.ticksEnabled = true) :
    s.tick = true ↔ s.divcnt + 1 = s.cfg.div := by
  obtain ⟨harm, htie, hgie⟩ := s.ticksEnabled_iff.mp h
  have htick : s.tick = s.expire := by simp only [State.tick, htie, hgie, Bool.and_true]
  rw [htick, s.expire_iff, reloadOf_of_pos hdiv]
  exact ⟨fun ⟨_, hlast⟩ => by omega, fun hlast => ⟨harm, by omega⟩⟩

/-- A count modulo `d` is its last value exactly before a multiple of `d`. -/
theorem mod_succ_eq_iff_dvd {d : Nat} (hd : 0 < d) (n : Nat) : n % d + 1 = d ↔ d ∣ n + 1 := by
  rw [Nat.dvd_iff_mod_eq_zero, Nat.add_mod_eq_ite]
  have hlt := Nat.mod_lt n hd
  rcases Nat.lt_or_ge 1 d with h1 | h1
  · rw [Nat.mod_eq_of_lt h1]
    split <;> omega
  · obtain rfl : d = 1 := by omega
    simp [Nat.mod_one]

/-! ### What an edge does to the tick and to `TCNT` -/

theorem clkEdge_cfg {p : Ports} {s t : State} (h : clkEdge p s = .next t) : t.cfg = s.cfg := by
  cases hrst : p.rst with
  | true =>
    obtain rfl := Host.Outcome.next.inj ((clkEdge_reset hrst s).symm.trans h)
    rfl
  | false =>
    obtain ⟨u, hedge, hcfg, -⟩ := clkEdge_frame hrst s
    obtain rfl := Host.Outcome.next.inj (hedge.symm.trans h)
    exact hcfg

/-- Every edge keeps the divider in its range (10_state.md R28). -/
theorem clkEdge_divcnt_lt {p : Ports} {s t : State} (h : clkEdge p s = .next t) (hlt : s.divcnt < s.cfg.div) :
    t.divcnt < s.cfg.div := by
  cases hrst : p.rst with
  | true =>
    obtain rfl := Host.Outcome.next.inj ((clkEdge_reset hrst s).symm.trans h)
    exact Nat.zero_lt_of_lt hlt
  | false =>
    obtain ⟨u, hedge, -, -, -, hdivcnt⟩ := clkEdge_frame hrst s
    obtain rfl := Host.Outcome.next.inj (hedge.symm.trans h)
    exact hdivcnt ▸ State.advanceDivider_divcnt_lt hlt

/-- Ticks that are enabled after an edge show that it was no `RESET`, which clears `CTL`; so the divider advanced. -/
theorem clkEdge_of_ticksEnabled {p : Ports} {s t : State} (h : clkEdge p s = .next t) (hen : t.ticksEnabled = true) :
    p.rst = false ∧ t.divcnt = s.advanceDivider.divcnt := by
  cases hrst : p.rst with
  | true =>
    obtain rfl := Host.Outcome.next.inj ((clkEdge_reset hrst s).symm.trans h)
    exact absurd (s.resetRegisters_ticksEnabled.symm.trans hen) Bool.false_ne_true
  | false =>
    obtain ⟨u, hedge, -, -, -, hdivcnt⟩ := clkEdge_frame hrst s
    obtain rfl := Host.Outcome.next.inj (hedge.symm.trans h)
    exact ⟨rfl, hdivcnt⟩

theorem step_of_ticksEnabled {s t : State} (h : step s = .next t) (hen : t.ticksEnabled = true) :
    s.ports.rst = false ∧ t.divcnt = s.advanceDivider.divcnt :=
  clkEdge_of_ticksEnabled (s := s.nextPorts) (clkEdge_of_step h) hen

/-- What a step without `rst` leaves in `CTL` and the divider. -/
theorem step_frame {s t : State} (h : step s = .next t) (hrst : s.ports.rst = false) :
    t.ctl = (if s.ports.cfgWe then s.ports.cfgWdata else s.ctl) ∧ t.divcnt = s.advanceDivider.divcnt := by
  obtain ⟨u, hedge, -, -, hctl, hdivcnt⟩ := clkEdge_frame hrst s.nextPorts
  obtain rfl := Host.Outcome.next.inj (hedge.symm.trans (clkEdge_of_step h))
  exact ⟨hctl, hdivcnt⟩

/-- A `CFGW` that keeps the three bits, or none at all, leaves the ticks enabled (R83). -/
theorem step_ticksEnabled {s t : State} (h : step s = .next t) (hrst : s.ports.rst = false)
    (hkeeps : s.ports.keepsTicks) (hen : s.ports.cfgWe = false → s.ticksEnabled = true) : t.ticksEnabled = true := by
  obtain ⟨hctl, -⟩ := step_frame h hrst
  cases hwe : s.ports.cfgWe with
  | false =>
    rw [hwe, if_neg Bool.false_ne_true] at hctl
    exact (State.ticksEnabled_congr hctl).trans (hen hwe)
  | true =>
    rw [hwe, if_pos rfl] at hctl
    refine t.ticksEnabled_iff.mpr ?_
    unfold State.arm State.tie State.gie
    exact hctl ▸ hkeeps hwe

/-- Without a poll `TCNT` counts the ticks. -/
theorem step_tcnt_unpolled {s t : State} (h : step s = .next t) (hrst : s.ports.rst = false)
    (hstep : s.ports.step = false) : t.tcnt = if s.tick then (s.tcnt + 1) % 2 ^ s.cfg.width else s.tcnt := by
  obtain ⟨s₁, hpoll, hedge⟩ := clkEdge_run hrst s.nextPorts
  obtain rfl := Host.Outcome.next.inj (hedge.symm.trans (clkEdge_of_step h))
  obtain rfl : s.nextPorts = s₁ := by simpa [hstep] using hpoll
  have htick : s.nextPorts.tick = s.tick := rfl
  dsimp only
  rw [htick]
  split <;> split <;> rfl

/-! ### Runs of the machine, last edge last -/

theorem core_run_snoc {n : Nat} {s t u : State} (hrun : Sys2Proof.core.run n s = .next t)
    (hstep : step t = .next u) : Sys2Proof.core.run (n + 1) s = .next u := by
  induction n generalizing s with
  | zero =>
    obtain rfl : s = t := Host.Outcome.next.inj hrun
    exact (core_run_succ 0 s).trans (andThen_eq_next.mpr ⟨u, hstep, rfl⟩)
  | succ n ih =>
    obtain ⟨r, hfirst, hrest⟩ := andThen_eq_next.mp ((core_run_succ n s).symm.trans hrun)
    exact (core_run_succ (n + 1) s).trans (andThen_eq_next.mpr ⟨r, hfirst, ih hrest⟩)

/-- With well-formed timing the machine runs for ever, and each edge uses up one port sample. -/
theorem core_run_total {s : State} (h : s.cfg.timingOk = true) (n : Nat) :
    ∃ t : State, Sys2Proof.core.run n s = .next t ∧ t.cfg = s.cfg ∧ t.inputs = s.inputs.drop n := by
  induction n with
  | zero => exact ⟨s, rfl, rfl, rfl⟩
  | succ n ih =>
    obtain ⟨t, hrun, hcfg, hinputs⟩ := ih
    obtain ⟨u, hstep, hcfg', hinputs'⟩ := step_total (hcfg ▸ h : t.cfg.timingOk = true)
    exact ⟨u, core_run_snoc hrun hstep, hcfg'.trans hcfg, by rw [hinputs', hinputs, List.tail_drop]⟩

/-- Whatever the listed samples and the low ports after them have in common, the ports at the edge have. -/
theorem State.ports_of_drop {Q : Ports → Prop} (hidle : Q Ports.idle) {s t : State} {k n : Nat} (hk : k < n)
    (hinputs : t.inputs = s.inputs.drop k) (hall : ∀ p ∈ s.inputs.take n, Q p) : Q t.ports := by
  unfold State.ports
  split
  case h_1 => exact hidle
  case h_2 p rest hcons =>
    have hp : (s.inputs.drop k)[0]? = some p := by rw [← hinputs, hcons]; rfl
    rw [List.getElem?_drop, Nat.add_zero] at hp
    exact hall p (List.mem_of_getElem? (i := k) (by rw [List.getElem?_take_of_lt hk, hp]))

/-! ### The edges that tick (R83) -/

/-- Enabled at `n` edges in a row, none of them a `RESET`: what the run has done to `CTL`, the divider and `TCNT`, as far
as the samples decide it. -/
structure TickRun (n : Nat) (s t : State) : Prop where
  run : Sys2Proof.core.run n s = .next t
  cfg : t.cfg = s.cfg
  inputs : t.inputs = s.inputs.drop n
  enabled : t.ticksEnabled = true
  divcnt : t.divcnt = n % s.cfg.div
  ctl : (∀ p ∈ s.inputs.take n, p.cfgWe = false) → t.ctl = s.ctl
  tcnt : (∀ p ∈ s.inputs.take n, p.step = false) → s.tcnt < 2 ^ s.cfg.width →
    t.tcnt = (s.tcnt + n / s.cfg.div) % 2 ^ s.cfg.width

theorem TickRun.zero {s : State} (hen : s.ticksEnabled = true) (hdivcnt : s.divcnt = 0) : TickRun 0 s s where
  run := rfl
  cfg := rfl
  inputs := rfl
  enabled := hen
  divcnt := hdivcnt.trans (Nat.zero_mod _).symm
  ctl _ := rfl
  tcnt _ hlt := by rw [Nat.zero_div, Nat.add_zero, Nat.mod_eq_of_lt hlt]

/-- The next edge ticks exactly where `DIV` divides its number. -/
theorem TickRun.tick_iff {n : Nat} {s t : State} (h : TickRun n s t) (hdiv : 1 ≤ s.cfg.div) :
    t.tick = true ↔ s.cfg.div ∣ n + 1 := by
  rw [State.tick_iff (h.cfg ▸ hdiv) h.enabled, h.cfg, h.divcnt]
  exact mod_succ_eq_iff_dvd hdiv n

/-- The ports at the next edge, where the samples listed for it and the edges before share a property. -/
theorem TickRun.ports {Q : Ports → Prop} (hidle : Q Ports.idle) {n : Nat} {s t : State} (h : TickRun n s t)
    (hall : ∀ p ∈ s.inputs.take (n + 1), Q p) : Q t.ports :=
  State.ports_of_drop hidle n.lt_succ_self h.inputs hall

theorem forall_mem_take_of_succ {Q : Ports → Prop} {n : Nat} {l : List Ports} (h : ∀ p ∈ l.take (n + 1), Q p) :
    ∀ p ∈ l.take n, Q p :=
  fun p hp => h p (List.take_subset_take_left l n.le_succ hp)

/-- One more edge: the divider advances, and `TCNT` counts the tick if there is one. -/
theorem TickRun.succ {n : Nat} {s t : State} (h : TickRun n s t) (htiming : s.cfg.timingOk = true)
    (hrst : ∀ p ∈ s.inputs.take (n + 1), p.rst = false) (hkeeps : ∀ p ∈ s.inputs.take (n + 1), p.keepsTicks) :
    ∃ u, TickRun (n + 1) s u := by
  obtain ⟨hdiv, -, -⟩ := (Config.timingOk_iff s.cfg).mp htiming
  obtain ⟨u, hstep, hcfg, hinputs⟩ := step_total (h.cfg ▸ htiming : t.cfg.timingOk = true)
  have hrst' : t.ports.rst = false := h.ports (Q := (·.rst = false)) rfl hrst
  have hkeeps' : t.ports.keepsTicks := h.ports (fun hwe => absurd hwe Bool.false_ne_true) hkeeps
  obtain ⟨hctl, hdivcnt⟩ := step_frame hstep hrst'
  refine ⟨u, {
    run := core_run_snoc h.run hstep
    cfg := hcfg.trans h.cfg
    inputs := by rw [hinputs, h.inputs, List.tail_drop]
    enabled := step_ticksEnabled hstep hrst' hkeeps' fun _ => h.enabled
    divcnt := ?divcnt
    ctl := ?ctl
    tcnt := ?tcnt }⟩
  case divcnt =>
    have hlt : t.divcnt < t.cfg.div := by
      rw [h.divcnt, h.cfg]
      exact Nat.mod_lt n hdiv
    rw [hdivcnt, State.advanceDivider_mod (State.arm_of_ticksEnabled h.enabled) hlt, h.divcnt, h.cfg, Nat.mod_add_mod]
  case ctl =>
    intro hwe
    have hwe' : t.ports.cfgWe = false := h.ports (Q := (·.cfgWe = false)) rfl hwe
    rw [hctl, hwe', if_neg Bool.false_ne_true, h.ctl (forall_mem_take_of_succ hwe)]
  case tcnt =>
    intro hpoll hlt
    have hpoll' : t.ports.step = false := h.ports (Q := (·.step = false)) rfl hpoll
    rw [step_tcnt_unpolled hstep hrst' hpoll', h.tcnt (forall_mem_take_of_succ hpoll) hlt, h.cfg, Nat.succ_div]
    simp only [h.tick_iff hdiv]
    split
    · rw [Nat.mod_add_mod, Nat.add_assoc]
    · rfl

theorem tickRun {s : State} (htiming : s.cfg.timingOk = true) (hen : s.ticksEnabled = true) (hdivcnt : s.divcnt = 0)
    {n : Nat} (hrst : ∀ p ∈ s.inputs.take n, p.rst = false) (hkeeps : ∀ p ∈ s.inputs.take n, p.keepsTicks) :
    ∃ t, TickRun n s t := by
  induction n with
  | zero => exact ⟨s, .zero hen hdivcnt⟩
  | succ n ih =>
    obtain ⟨t, ht⟩ := ih (forall_mem_take_of_succ hrst) (forall_mem_take_of_succ hkeeps)
    exact ht.succ htiming hrst hkeeps

theorem State.eventVector_tick (p : Ports) (s : State) : (s.eventVector p).getLsbD 0 = (!p.rst && s.tick) :=
  getLsbD_zero_append_ofBool _ _

/-- The edge of the arming `CFGW`: the divider was held at 0, and the three bits are set after it. -/
theorem step_arms {s : State} (htiming : s.cfg.timingOk = true) (harm : s.arm = false) (hrst : s.ports.rst = false)
    (hwe : s.ports.cfgWe = true) (hkeeps : s.ports.keepsTicks) :
    ∃ t, step s = .next t ∧ t.divcnt = 0 ∧ t.ticksEnabled = true := by
  obtain ⟨t, hstep, -, -⟩ := step_total htiming
  obtain ⟨-, hdivcnt⟩ := step_frame hstep hrst
  refine ⟨t, hstep, hdivcnt.trans (State.advanceDivider_unarmed harm), step_ticksEnabled hstep hrst hkeeps fun hno => ?_⟩
  exact absurd (hno.symm.trans hwe) Bool.false_ne_true

/-- Settles O22: the arming edge, and from there the divider's count modulo `DIV` by induction on the edges. -/
theorem tickFallsAtEveryDivEdges : Obligations.TickFallsAtEveryDivEdges := by
  constructor
  · intro s
    exact step_arms
  · intro n s htiming harm htie hgie hdivcnt hrst hkeeps
    obtain ⟨hdiv, -, -⟩ := (Config.timingOk_iff s.cfg).mp htiming
    have hen := s.ticksEnabled_iff.mpr ⟨harm, htie, hgie⟩
    obtain ⟨t, ht⟩ := tickRun htiming hen hdivcnt (forall_mem_take_of_succ hrst) hkeeps
    have hrst' : t.ports.rst = false := ht.ports (Q := (·.rst = false)) rfl hrst
    refine ⟨t, ht.run, ht.enabled, ht.divcnt, ?_, ht.ctl, ht.tcnt⟩
    rw [State.eventVector_tick, hrst', Bool.not_false, Bool.true_and]
    exact (ht.tick_iff hdiv).symm

/-! ### The bound on the wait for a tick (R83, R84) -/

/-- An armed divider that starts below `d = DIV` reaches its last count within `d` edges. -/
theorem exists_tick_of_enabled {d : Nat} {state : Nat → State} (hcfg : ∀ k, k < d → (state k).cfg.div = d)
    (hen : ∀ k, k < d → (state k).ticksEnabled = true)
    (hstep : ∀ k, k + 1 < d → (state (k + 1)).divcnt = (state k).advanceDivider.divcnt)
    (hlt : (state 0).divcnt < d) : ∃ k, k < d ∧ (state k).tick = true := by
  have hd : 0 < d := Nat.zero_lt_of_lt hlt
  have count (k : Nat) (hk : k < d) : (state k).divcnt = ((state 0).divcnt + k) % d := by
    induction k with
    | zero => exact (Nat.mod_eq_of_lt hlt).symm
    | succ k ih =>
      have hk' := Nat.lt_of_succ_lt hk
      have hlt' : (state k).divcnt < (state k).cfg.div := by
        rw [ih hk', hcfg k hk']
        exact Nat.mod_lt _ hd
      rw [hstep k hk, State.advanceDivider_mod (State.arm_of_ticksEnabled (hen k hk')) hlt', ih hk', hcfg k hk',
        Nat.mod_add_mod, Nat.add_assoc]
  have hlast : d - 1 - (state 0).divcnt < d := by omega
  refine ⟨d - 1 - (state 0).divcnt, hlast, (State.tick_iff (by rwa [hcfg _ hlast]) (hen _ hlast)).mpr ?_⟩
  rw [count _ hlast, hcfg _ hlast, Nat.mod_eq_of_lt (by omega)]
  omega

/-- The bound along an infinite run of clock edges, from any edge on. -/
theorem clockRun_tinc_within {ports : Nat → Ports} {state : Nat → State}
    (hrun : ∀ n, clkEdge (ports n) (state n) = .next (state (n + 1))) (hlt : (state 0).divcnt < (state 0).cfg.div)
    {a : Nat} (hen : ∀ n, a ≤ n → n ≤ a + (state 0).cfg.div → (state n).ticksEnabled = true) :
    ∃ n, a ≤ n ∧ n < a + (state 0).cfg.div ∧ Instr.tinc ∈ (state n).eventsAt (ports n) := by
  have hinv (n : Nat) : (state n).cfg = (state 0).cfg ∧ (state n).divcnt < (state 0).cfg.div := by
    induction n with
    | zero => exact ⟨rfl, hlt⟩
    | succ n ih =>
      obtain ⟨hcfg, hdivcnt⟩ := ih
      exact ⟨(clkEdge_cfg (hrun n)).trans hcfg, hcfg ▸ clkEdge_divcnt_lt (hrun n) (hcfg ▸ hdivcnt)⟩
  have hedge (k : Nat) (hk : k < (state 0).cfg.div) :=
    clkEdge_of_ticksEnabled (hrun (a + k)) (hen (a + k + 1) (by omega) (by omega))
  obtain ⟨-, hstart⟩ := hinv a
  obtain ⟨k, hk, htick⟩ := exists_tick_of_enabled (state := fun k => state (a + k))
    (fun k _ => congrArg Config.div (hinv (a + k)).left) (fun k hk => hen (a + k) (by omega) (by omega))
    (fun k hk => (hedge k (Nat.lt_of_succ_lt hk)).right) hstart
  exact ⟨a + k, by omega, by omega, (State.tinc_mem_eventsAt _ _).mpr ⟨(hedge k hk).left, htick⟩⟩

/-- The bound along the machine's own run. -/
theorem core_run_tinc_within {s : State} (htiming : s.cfg.timingOk = true) (hlt : s.divcnt < s.cfg.div)
    (hen : ∀ n, n ≤ s.cfg.div → ∃ t, Sys2Proof.core.run n s = .next t ∧ t.ticksEnabled = true) :
    ∃ n t, n < s.cfg.div ∧ Sys2Proof.core.run n s = .next t ∧ Instr.tinc ∈ t.eventsAt t.ports := by
  choose state hrun hcfg _ using core_run_total htiming
  have hen' (n : Nat) (hn : n ≤ s.cfg.div) : (state n).ticksEnabled = true := by
    obtain ⟨t, ht, hticks⟩ := hen n hn
    exact Host.Outcome.next.inj (ht.symm.trans (hrun n)) ▸ hticks
  have hstep (n : Nat) : step (state n) = .next (state (n + 1)) := by
    obtain ⟨t, ht, -, -⟩ := step_total (hcfg n ▸ htiming : (state n).cfg.timingOk = true)
    rw [ht, Host.Outcome.next.inj ((core_run_snoc (hrun n) ht).symm.trans (hrun (n + 1)))]
  have hedge (n : Nat) (hn : n < s.cfg.div) := step_of_ticksEnabled (hstep n) (hen' (n + 1) hn)
  have hstart : state 0 = s := (Host.Outcome.next.inj ((core_run_zero s).symm.trans (hrun 0))).symm
  obtain ⟨n, hn, htick⟩ := exists_tick_of_enabled (fun k _ => congrArg Config.div (hcfg k))
    (fun k hk => hen' k hk.le) (fun k hk => (hedge k (Nat.lt_of_succ_lt hk)).right) (hstart ▸ hlt)
  exact ⟨n, state n, hn, hrun n, (State.tinc_mem_eventsAt _ _).mpr ⟨(hedge n hn).left, htick⟩⟩

/-- Settles O59: within `DIV` enabled edges the divider passes its last count, so from enabled edges for ever the ticks
recur. -/
theorem clockRunsAreFair : Obligations.ClockRunsAreFair := by
  refine ⟨fun ports state hrun hlt => ⟨fun a => clockRun_tinc_within hrun hlt, ?_⟩, fun s => core_run_tinc_within⟩
  rintro ⟨m, hen⟩ m'
  obtain ⟨n, hn, -, htinc⟩ := clockRun_tinc_within hrun hlt (a := max m m') fun n hn _ =>
    hen n (le_of_max_le_left hn)
  exact ⟨n, le_of_max_le_right hn, htinc⟩

end Sys2Proof.Machine

/-! PROOFS. The progress of fair event-level runs (40_tick_clock.md R84, 42_sequencer.md R128, R129).

At the event level no divider counts, and the ticks come from fairness alone. While `TCNT` counts and every tick slot
is polled, some poll sees the threshold reached, as it lies below `2^W`; that poll moves the sequencer on, so it goes
round its six positions for ever. -/

namespace Sys2Proof.Machine

/-! ### What a `STEP` does on either side of the threshold -/

/-- Where `SEQ` leads from each byte position once the threshold is reached (42_sequencer.md R118 to R123). -/
def nextPos : BytePos → BytePos
  | .b5 => .b4
  | .b4 => .b3
  | .b3 => .b2
  | .b2 => .b1
  | .b1 => .b0
  | .b0 => .b5

theorem seq_nextPos {b : BytePos} {t : Nat} (s : State) (h : expOf s.cfg b t = true) :
    ∃ u, seq b t s = .next u ∧ u.bidx = nextPos b := by
  have hthreshold : thresholdOf s.cfg b ≤ t := of_decide_eq_true h
  cases b <;> exact ⟨_, if_pos hthreshold, rfl⟩

/-- From offset 9 on every channel is at the idle level (41_render.md R90, R110). -/
theorem render_stop (b : BytePos) {t : Nat} (ht : 9 ≤ t) (s : State) : render b t s = .next (s.driveAll true) := by
  obtain ⟨k, rfl⟩ := Nat.exists_eq_add_of_le' ht
  unfold render
  cases identOf b <;> rfl

/-- A poll below the threshold only renders. -/
theorem execStep_hold {s : State} (h : s.exp = false) : ∃ o, execStep s = .next { s with out := o } := by
  obtain ⟨o, hrender⟩ := render_total s.bidx s.tcnt s
  exact ⟨o, andThen_eq_next.mpr ⟨_, hrender, seq_hold _ h⟩⟩

/-- A poll with the threshold reached moves the sequencer on. -/
theorem execStep_nextPos {s t : State} (h : s.exp = true) (hstep : execStep s = .next t) : t.bidx = nextPos s.bidx := by
  obtain ⟨r, hrender, hseq⟩ := andThen_eq_next.mp hstep
  obtain ⟨o, ho⟩ := render_total s.bidx s.tcnt s
  obtain rfl := Host.Outcome.next.inj (ho.symm.trans hrender)
  obtain ⟨u, hu, hbidx⟩ := seq_nextPos { s with out := o } h
  exact Host.Outcome.next.inj (hu.symm.trans hseq) ▸ hbidx

/-- The poll that performs `ADV4`: the idle level rendered, the cycle's first byte begun. -/
theorem execStep_atCycleStart {s t : State} (htiming : s.cfg.timingOk = true) (hb : s.bidx = .b5) (h : s.exp = true)
    (hstep : execStep s = .next t) : t.atCycleStart := by
  obtain ⟨-, hbyte, -⟩ := (Config.timingOk_iff s.cfg).mp htiming
  have hthreshold : s.cfg.byteTicks ≤ s.tcnt := by
    rw [State.exp, hb] at h
    exact of_decide_eq_true h
  have hrender : render s.bidx s.tcnt s = .next (s.driveAll true) :=
    render_stop s.bidx (Nat.le_trans (by decide) (Nat.le_trans hbyte hthreshold)) s
  have hadv4 : seq s.bidx s.tcnt (s.driveAll true) = execAdv4 (s.driveAll true) := by
    rw [hb]
    exact if_pos hthreshold
  obtain rfl := Host.Outcome.next.inj ((andThen_eq_next.mpr ⟨_, hrender, hadv4⟩).symm.trans hstep)
  exact ⟨rfl, rfl, rfl, rfl⟩

/-! ### What an event does to the sequencer's position and to `TCNT` -/

theorem EventStep.cfg {i : Instr} {s t : State} (h : EventStep i s t) : t.cfg = s.cfg := by
  obtain ⟨hi, he⟩ := h
  obtain rfl | rfl | ⟨v, rfl⟩ | ⟨rfl, -⟩ := hi
  case inr.inl =>
    obtain ⟨o, b, d, k, hstep⟩ := execStep_total s
    obtain rfl := Host.Outcome.next.inj (hstep.symm.trans he)
    rfl
  all_goals
    obtain rfl := Host.Outcome.next.inj he
    rfl

theorem EventStep.ne_reset {i : Instr} {s t : State} (h : EventStep i s t) (hen : t.ticksEnabled = true) :
    i ≠ .reset := by
  rintro rfl
  obtain ⟨-, he⟩ := h
  obtain rfl : s.resetRegisters = t := Host.Outcome.next.inj he
  exact absurd (s.resetRegisters_ticksEnabled.symm.trans hen) Bool.false_ne_true

/-- Unless it is `RESET` or a poll with the threshold reached, an event leaves the position, and `TCNT` counts it if it
is a tick. -/
theorem EventStep.holds {i : Instr} {s t : State} (h : EventStep i s t) (hreset : i ≠ .reset)
    (hexp : i = .step → s.exp = false) :
    t.bidx = s.bidx ∧ t.tcnt = if i = .tinc then (s.tcnt + 1) % 2 ^ s.cfg.width else s.tcnt := by
  obtain ⟨hi, he⟩ := h
  obtain rfl | rfl | ⟨v, rfl⟩ | ⟨rfl, -⟩ := hi
  · exact absurd rfl hreset
  · obtain ⟨o, hhold⟩ := execStep_hold (hexp rfl)
    obtain rfl := Host.Outcome.next.inj (hhold.symm.trans he)
    exact ⟨rfl, rfl⟩
  · obtain rfl : s.writeCtl v = t := Host.Outcome.next.inj he
    exact ⟨rfl, rfl⟩
  · obtain rfl : s.takeTick = t := Host.Outcome.next.inj he
    exact ⟨rfl, rfl⟩

/-! ### A polled counter is seen at its threshold -/

theorem exists_next_of_recurrent {P : Nat → Prop} (h : ∀ m, ∃ n, m ≤ n ∧ P n) (a : Nat) :
    ∃ b, a < b ∧ P b ∧ ∀ k, a < k → k < b → ¬ P k := by
  classical
  have hex : ∃ b, a < b ∧ P b := h (a + 1)
  obtain ⟨hab, hb⟩ := Nat.find_spec hex
  exact ⟨Nat.find hex, hab, hb, fun k hak hkb hk => Nat.find_min hex hkb ⟨hak, hk⟩⟩

section
variable {event : Nat → Instr} {tcnt : Nat → Nat} {threshold width n : Nat}

/-- One tick slot of a counter that no poll sees at its threshold: it is polled below it, and the next tick adds one. -/
theorem count_next_tick (hticks : ∀ m, ∃ k, m ≤ k ∧ event k = .tinc) (hpolled : PolledInEverySlot event)
    (hwidth : threshold < 2 ^ width)
    (hcount : ∀ k, n ≤ k → tcnt (k + 1) = if event k = .tinc then (tcnt k + 1) % 2 ^ width else tcnt k)
    (hunseen : ∀ k, n ≤ k → event k = .step → tcnt k < threshold) {a : Nat} (hna : n ≤ a) (ha : event a = .tinc) :
    tcnt (a + 1) < threshold ∧ ∃ b, n ≤ b ∧ event b = .tinc ∧ tcnt (b + 1) = tcnt (a + 1) + 1 := by
  obtain ⟨b, hab, hb, hbetween⟩ := exists_next_of_recurrent hticks a
  have hslot (k : Nat) (hak : a + 1 ≤ k) : k ≤ b → tcnt k = tcnt (a + 1) := by
    induction k, hak using Nat.le_induction with
    | base => exact fun _ => rfl
    | succ k hak ih =>
      intro hkb
      rw [hcount k (by omega), if_neg (hbetween k hak hkb), ih (Nat.le_of_lt hkb)]
  obtain ⟨c, hac, hcb, hc⟩ := hpolled a b hab ha hb
  have hlow : tcnt (a + 1) < threshold := hslot c hac hcb.le ▸ hunseen c (by omega) hc
  refine ⟨hlow, b, by omega, hb, ?_⟩
  rw [hcount b (by omega), if_pos hb, hslot b hab le_rfl, Nat.mod_eq_of_lt (by omega)]

/-- A counter that ticks for ever and is polled between any two ticks is seen at a threshold it can hold: otherwise it
would count on below it without end. -/
theorem exists_poll_at_threshold (hticks : ∀ m, ∃ k, m ≤ k ∧ event k = .tinc) (hpolled : PolledInEverySlot event)
    (hwidth : threshold < 2 ^ width)
    (hcount : ∀ k, n ≤ k → tcnt (k + 1) = if event k = .tinc then (tcnt k + 1) % 2 ^ width else tcnt k) :
    ∃ k, n ≤ k ∧ event k = .step ∧ threshold ≤ tcnt k := by
  by_contra! hunseen
  have hnext {a : Nat} := count_next_tick (a := a) hticks hpolled hwidth hcount hunseen
  have hclimb (j : Nat) : ∃ a, n ≤ a ∧ event a = .tinc ∧ j ≤ tcnt (a + 1) := by
    induction j with
    | zero =>
      obtain ⟨a, hna, ha⟩ := hticks n
      exact ⟨a, hna, ha, Nat.zero_le _⟩
    | succ j ih =>
      obtain ⟨a, hna, ha, hj⟩ := ih
      obtain ⟨-, b, hnb, hb, hcnt⟩ := hnext hna ha
      exact ⟨b, hnb, hb, by omega⟩
  obtain ⟨a, hna, ha, hreached⟩ := hclimb threshold
  obtain ⟨hlow, -⟩ := hnext hna ha
  exact absurd hreached (Nat.not_le.mpr hlow)

end

/-! ### The sequencer goes round for ever -/

/-- Well-formed timing lets `TCNT` hold both thresholds (00_scope.md R6). -/
theorem thresholdOf_lt_two_pow_width {c : Config} (h : c.timingOk = true) (b : BytePos) :
    thresholdOf c b < 2 ^ c.width := by
  obtain ⟨-, -, hwidth⟩ := (Config.timingOk_iff c).mp h
  refine Nat.lt_of_le_of_lt ?_ hwidth
  unfold thresholdOf
  split
  · exact le_rfl
  · exact Nat.le_add_right _ _

/-- From every byte position the sequencer comes to 5. -/
theorem exists_iterate_nextPos (b : BytePos) : ∃ j, nextPos^[j] b = .b5 := by
  cases b with
  | b5 => exact ⟨0, rfl⟩
  | b0 => exact ⟨1, rfl⟩
  | b1 => exact ⟨2, rfl⟩
  | b2 => exact ⟨3, rfl⟩
  | b3 => exact ⟨4, rfl⟩
  | b4 => exact ⟨5, rfl⟩

theorem InfiniteRun.cfg {event : Nat → Instr} {state : Nat → State} (h : InfiniteRun event state) (n : Nat) :
    (state n).cfg = (state 0).cfg := by
  induction n with
  | zero => rfl
  | succ n ih => exact (h n).cfg.trans ih

section
variable {event : Nat → Instr} {state : Nat → State} {m : Nat}

/-- From any point of the enabled part of the run on, a poll moves the sequencer on from the position it has there. -/
theorem exists_expired_poll (hrun : InfiniteRun event state) (htiming : (state 0).cfg.timingOk = true)
    (hen : ∀ n, m ≤ n → (state n).ticksEnabled = true) (hticks : ∀ n, ∃ k, n ≤ k ∧ event k = .tinc)
    (hpolled : PolledInEverySlot event) {n : Nat} (hn : m ≤ n) :
    ∃ k, n ≤ k ∧ event k = .step ∧ (state k).exp = true ∧ (state k).bidx = (state n).bidx := by
  by_contra! hnone
  have hholds {k : Nat} (hnk : n ≤ k) (hbidx : (state k).bidx = (state n).bidx) :=
    (hrun k).holds ((hrun k).ne_reset (hen (k + 1) (by omega))) fun hk =>
      Bool.eq_false_iff.mpr fun hexp => hnone k hnk hk hexp hbidx
  have hstays (k : Nat) (hnk : n ≤ k) : (state k).bidx = (state n).bidx := by
    induction k, hnk using Nat.le_induction with
    | base => rfl
    | succ k hnk ih =>
      obtain ⟨hbidx, -⟩ := hholds hnk ih
      exact hbidx.trans ih
  obtain ⟨k, hnk, hk, hreached⟩ := exists_poll_at_threshold (tcnt := fun k => (state k).tcnt) hticks hpolled
    (thresholdOf_lt_two_pow_width htiming (state n).bidx) fun k hnk => by
      obtain ⟨-, htcnt⟩ := hholds hnk (hstays k hnk)
      rw [htcnt, hrun.cfg k]
  refine hnone k hnk hk ?_ (hstays k hnk)
  rw [State.exp, hstays k hnk, hrun.cfg k]
  exact decide_eq_true hreached

/-- So it goes through every number of positions. -/
theorem exists_iterate_bidx (hrun : InfiniteRun event state) (htiming : (state 0).cfg.timingOk = true)
    (hen : ∀ n, m ≤ n → (state n).ticksEnabled = true) (hticks : ∀ n, ∃ k, n ≤ k ∧ event k = .tinc)
    (hpolled : PolledInEverySlot event) {n : Nat} (hn : m ≤ n) (j : Nat) :
    ∃ k, n ≤ k ∧ (state k).bidx = nextPos^[j] (state n).bidx := by
  induction j with
  | zero => exact ⟨n, le_rfl, rfl⟩
  | succ j ih =>
    obtain ⟨i, hni, hi⟩ := ih
    obtain ⟨k, hik, hk, hexp, hbidx⟩ := exists_expired_poll hrun htiming hen hticks hpolled (hn.trans hni)
    obtain ⟨-, hstep⟩ := hrun k
    rw [hk] at hstep
    refine ⟨k + 1, by omega, ?_⟩
    rw [execStep_nextPos hexp hstep, hbidx, hi, Function.iterate_succ_apply']

end

/-- Settles O60: fairness gives the ticks, these and the polls take the sequencer to position 5 and on from there, and
the poll that leaves 5 performs `ADV4`. -/
theorem fairRunsStartCyclesForever : Obligations.FairRunsStartCyclesForever := by
  rintro event state ⟨hrun, hfair⟩ htiming ⟨m, hen⟩ hpolled m'
  have hticks := hfair ⟨m, hen⟩
  obtain ⟨j, hj⟩ := exists_iterate_nextPos (state (max m m')).bidx
  obtain ⟨n, hn, hpos⟩ := exists_iterate_bidx hrun htiming hen hticks hpolled (le_max_left m m') j
  obtain ⟨k, hnk, hk, hexp, hbidx⟩ := exists_expired_poll hrun htiming hen hticks hpolled (le_of_max_le_left hn)
  obtain ⟨-, hstep⟩ := hrun k
  rw [hk] at hstep
  refine ⟨k + 1, by omega, execStep_atCycleStart ?_ (hbidx.trans (hpos.trans hj)) hexp hstep⟩
  rwa [hrun.cfg k]

end Sys2Proof.Machine

/-! PROOFS. The Frame Output Driver (41_render.md).

What `RENDER` writes is one byte, a function of the parameters, the sampled position and offset, and `DATA`; neither the
previous `OUT` nor any other register enters. Since `SEQ` leaves `OUT`, this byte is also what a `STEP` leaves there. -/

namespace Sys2Proof.Machine

/-! ### The operations the render key selects (R91 to R110) -/

/-- Settles O23: the open bit of the key is `IDENT`, which no `START` reads; the reset state is at offset 0 of the
identification byte. -/
theorem startDrivesEveryChannelLow : Obligations.StartDrivesEveryChannelLow :=
  ⟨fun ident _ => ⟨decodeRender_start ident, rfl⟩, fun _ => decodeRender_start true⟩

/-- Settles O24: each key by evaluation, and each operation is `drivePayloadBit` of its own bit. -/
theorem dataBitOpsBroadcastOnePayloadBit : Obligations.DataBitOpsBroadcastOnePayloadBit :=
  ⟨⟨rfl, rfl, rfl, rfl, rfl, rfl, rfl, rfl⟩, fun _ => ⟨rfl, rfl, rfl, rfl, rfl, rfl, rfl, rfl⟩⟩

/-- Settles O25: each operation drives its own column, and a column collects one bit of every row. -/
theorem muxOpsSteerOneTableColumn : Obligations.MuxOpsSteerOneTableColumn := by
  refine ⟨⟨rfl, rfl, rfl, rfl, rfl, rfl, rfl, rfl⟩, fun s => ?_⟩
  refine ⟨_, _, _, _, _, _, _, _, rfl, rfl, rfl, rfl, rfl, rfl, rfl, rfl, fun c hc => ?_⟩
  have hbit (k : Nat) : (column s.cfg k).getLsbD c = s.cfg.cit.getLsbD (8 * c + k) := column_getLsbD s.cfg k hc
  exact ⟨hbit 0, hbit 1, hbit 2, hbit 3, hbit 4, hbit 5, hbit 6, hbit 7⟩

/-- Settles O26: the open bit of the key is `IDENT`, which no `STOP` reads. -/
theorem stopDrivesEveryChannelHigh : Obligations.StopDrivesEveryChannelHigh :=
  fun ident _ => ⟨decodeRender_stop ident, rfl⟩

/-! ### `RENDER` selects one of them (R90) -/

theorem identOf_eq_decide (b : BytePos) : identOf b = decide (b = .b0) := by
  cases b <;> rfl

/-- Up to offset 8 every offset has its own `SLOT`. -/
theorem render_performs_of_lt (b : BytePos) {t : Nat} (ht : t < 9) (s : State) :
    ∃ r, decodeRender (BitVec.ofBool (identOf b) ++ BitVec.ofNat 4 t) = .ok r ∧ render b t s = exec r s := by
  unfold render
  generalize identOf b = ident
  interval_cases t <;> cases ident <;> exact ⟨_, rfl, rfl⟩

/-- Settles O27: below offset 9 by the table, row by row; from there on `SLOT` is 9, and both sides are `STOP`. -/
theorem renderPerformsTheKeyedOperation : Obligations.RenderPerformsTheKeyedOperation := by
  intro b t s
  rw [← identOf_eq_decide]
  rcases Nat.lt_or_ge t 9 with ht | ht
  · rw [Nat.min_eq_left (Nat.le_of_lt ht)]
    exact render_performs_of_lt b ht s
  · rw [Nat.min_eq_right ht]
    exact ⟨.stop (identOf b), decodeRender_stop (identOf b), render_stop b ht s⟩

/-! ### The byte a `STEP` leaves in `OUT` -/

/-- The byte `RENDER` drives at position `b` and offset `t` with payload `d` (41_render.md R90): the start level, a
table column or one payload bit on every channel, the idle level. -/
def renderedOut (cfg : Config) (b : BytePos) (t : Nat) (d : Byte) : Byte :=
  if t = 0 then rep8 false
  else if t ≤ 8 then (if identOf b then column cfg (t - 1) else rep8 (d.getLsbD (t - 1)))
  else rep8 true

theorem render_eq (b : BytePos) (t : Nat) (s : State) :
    render b t s = .next { s with out := renderedOut s.cfg b t s.data } := by
  rcases Nat.lt_or_ge t 9 with ht | ht
  · unfold render renderedOut
    generalize identOf b = ident
    interval_cases t <;> cases ident <;> rfl
  · rw [render_stop b ht, renderedOut, if_neg (by omega), if_neg (by omega)]
    rfl

/-- A `STEP` is `SEQ` from the state with the rendered byte in `OUT`. -/
theorem execStep_eq_seq (s : State) :
    execStep s = seq s.bidx s.tcnt { s with out := renderedOut s.cfg s.bidx s.tcnt s.data } := by
  rw [execStep, render_eq, andThen_next]

/-- `SEQ` leaves `OUT`, so after a `STEP` it holds the rendered byte. -/
theorem execStep_out {s t : State} (h : execStep s = .next t) : t.out = renderedOut s.cfg s.bidx s.tcnt s.data := by
  rw [execStep_eq_seq] at h
  obtain ⟨b, d, k, hseq⟩ := seq_total s.bidx s.tcnt { s with out := renderedOut s.cfg s.bidx s.tcnt s.data }
  obtain rfl := Host.Outcome.next.inj (hseq.symm.trans h)
  rfl

/-- The level of one channel after a `STEP`. -/
theorem execStep_level {s t : State} (h : execStep s = .next t) {c : Nat} (hc : c < 8) :
    t.out.getLsbD c =
      if s.tcnt = 0 then false
      else if s.tcnt ≤ 8 then
        (if identOf s.bidx then pattern s.cfg c (s.tcnt - 1) else s.data.getLsbD (s.tcnt - 1))
      else true := by
  rw [execStep_out h]
  exact render_level (render_eq s.bidx s.tcnt s) hc

/-- Settles O28: the four clauses are the branches of a channel's level. -/
theorem stepLevelsByOffset : Obligations.StepLevelsByOffset := by
  intro s
  obtain ⟨_, _, _, _, h⟩ := execStep_total s
  refine ⟨_, h, fun c hc => ?_⟩
  rw [execStep_level h hc]
  refine ⟨fun ht => if_pos ht, fun k hk ht hb => ?_, fun k hk ht hb => ?_, fun ht => ?_⟩
  · rw [ht, hb, if_neg (Nat.succ_ne_zero k), if_pos (Nat.succ_le_of_lt hk)]
    rfl
  · rw [ht, if_neg (Nat.succ_ne_zero k), if_pos (Nat.succ_le_of_lt hk),
      if_neg (mt (identOf_iff s.bidx).mp hb)]
    rfl
  · rw [if_neg (Nat.ne_zero_of_lt ht), if_neg (Nat.not_le.mpr ht)]

/-- Settles O29: neither the rendered byte nor `SEQ` reads `OUT`, and `RENDER` overwrites it. -/
theorem stepOverwritesEveryChannel : Obligations.StepOverwritesEveryChannel := by
  intro s o
  obtain ⟨_, _, _, _, h⟩ := execStep_total s
  have hsame : execStep { s with out := o } = execStep s := by rw [execStep_eq_seq, execStep_eq_seq]
  exact ⟨_, h, hsame.trans h⟩

/-! ### Ordinary bytes (R113) -/

theorem rep8_eq_or (b : Bool) : rep8 b = 0x00 ∨ rep8 b = 0xFF := by
  cases b
  · exact .inl rfl
  · exact .inr rfl

/-- On an ordinary byte one level is driven on every channel. -/
theorem renderedOut_eq_rep8 (cfg : Config) {b : BytePos} (hb : b ≠ .b0) (t : Nat) (d : Byte) :
    ∃ level, renderedOut cfg b t d = rep8 level := by
  have hident : ¬ identOf b = true := mt (identOf_iff b).mp hb
  unfold renderedOut
  rw [if_neg hident]
  split
  · exact ⟨_, rfl⟩
  · split <;> exact ⟨_, rfl⟩

/-- Settles O30: what is driven on every channel is one level. -/
theorem channelsAgreeOnOrdinaryBytes : Obligations.ChannelsAgreeOnOrdinaryBytes := by
  intro s hb
  obtain ⟨_, _, _, _, h⟩ := execStep_total s
  obtain ⟨level, hlevel⟩ := renderedOut_eq_rep8 s.cfg hb s.tcnt s.data
  refine ⟨_, h, ?_⟩
  rw [execStep_out h, hlevel]
  exact rep8_eq_or level

/-! ### The identification byte (R101) -/

/-- The identification byte is rendered from the table alone. -/
theorem renderedOut_identification (cfg : Config) (t : Nat) (d d' : Byte) :
    renderedOut cfg .b0 t d = renderedOut cfg .b0 t d' := rfl

/-- At the identification byte `SEQ` restarts the cycle or holds; neither touches `DATA`. -/
theorem seq_identification (t : Nat) (s : State) :
    seq .b0 t s = .next (if s.cfg.restartTicks ≤ t then s.restartCycle else s) :=
  (apply_ite Host.Outcome.next _ _ _).symm

/-- A `STEP` at the identification byte: `OUT` is rendered as it would be with any payload `d`, and `BIDX` is the one
other register it may write. -/
theorem execStep_identification {s : State} (hb : s.bidx = .b0) (d : Byte) :
    execStep s = .next { s with
      out := renderedOut s.cfg .b0 s.tcnt d
      bidx := if s.cfg.restartTicks ≤ s.tcnt then .b5 else s.bidx } := by
  rw [execStep_eq_seq, hb, seq_identification, renderedOut_identification s.cfg s.tcnt s.data d]
  split
  · rfl
  · rw [← hb]

/-- Settles O31: from both states `OUT` is rendered as with the payload of the first, and neither payload is written. -/
theorem identificationByteIgnoresPayload : Obligations.IdentificationByteIgnoresPayload :=
  fun s d hb => ⟨_, execStep_identification hb s.data, rfl,
    execStep_identification (s := { s with data := d }) hb s.data⟩

end Sys2Proof.Machine

/-! PROOFS. The Broadcast Sequencer (42_sequencer.md): its operations, `STEP`, and runs of polls.

A `STEP` renders, and then it holds, restarts the cycle or begins the next byte; each of the three is an equation for
the whole next state, and what a number of polls in a row leaves follows from these. -/

namespace Sys2Proof.Machine

/-! ### The operations the sequencer key selects (R117 to R123) -/

/-- The first mask of `HOLD` selects positions 0 to 3, the position's low bits the operand. -/
theorem decodeSeq_holdLow_iff (qk : SeqKey) :
    qk &&& 0b1001 = 0b0000 ↔ ∃ pos, decodeSeq qk = .ok (.holdLow pos) := by
  rw [BitVec.toNat_eq, BitVec.toNat_and]
  constructor
  · intro hmask
    obtain ⟨pos, rfl⟩ := seqKey_eq_of_holdLow_mask hmask
    exact ⟨pos, decodeSeq_holdLow pos⟩
  · rintro ⟨pos, h⟩
    exact seqKey_matches_row h

/-- The second mask of `HOLD` selects positions 4 and 5. -/
theorem decodeSeq_holdHigh_iff (qk : SeqKey) :
    qk &&& 0b1101 = 0b1000 ↔ ∃ five, decodeSeq qk = .ok (.holdHigh five) := by
  rw [BitVec.toNat_eq, BitVec.toNat_and]
  constructor
  · intro hmask
    obtain ⟨five, rfl⟩ := seqKey_eq_of_holdHigh_mask hmask
    exact ⟨five, decodeSeq_holdHigh five⟩
  · rintro ⟨five, h⟩
    exact seqKey_matches_row h

/-- Settles O32: each mask is one row of the table. -/
theorem holdWritesNothing : Obligations.HoldWritesNothing :=
  ⟨fun qk => or_congr (decodeSeq_holdLow_iff qk) (decodeSeq_holdHigh_iff qk), fun _ _ _ => ⟨rfl, rfl⟩⟩

/-- Settles O33: each key by evaluation, and each operation is `beginByte` with its own slice of `DEVID`. -/
theorem advanceBeginsIdentifierByte : Obligations.AdvanceBeginsIdentifierByte :=
  ⟨⟨rfl, rfl, rfl, rfl⟩, fun _ => ⟨rfl, rfl, rfl, rfl⟩⟩

/-- Settles O34: the key by evaluation, and the operation is `beginByte` with payload 0. -/
theorem adv0BeginsIdentificationByte : Obligations.Adv0BeginsIdentificationByte :=
  ⟨rfl, fun _ => rfl⟩

/-- Settles O35: the key by evaluation, and the operation is `restartCycle`. -/
theorem restartWritesBytePositionOnly : Obligations.RestartWritesBytePositionOnly :=
  ⟨rfl, fun _ => rfl⟩

/-! ### `STEP` performs both keyed operations (R115) -/

/-- `SEQ` performs the operation that its position and threshold select (R116). -/
theorem seq_performs (b : BytePos) (t : Nat) (s : State) :
    ∃ q, decodeSeq (posCode b ++ BitVec.ofBool (expOf s.cfg b t)) = .ok q ∧ seq b t s = exec q s := by
  cases hexp : expOf s.cfg b t with
  | false =>
    rw [seq_hold s hexp]
    cases b <;> exact ⟨_, rfl, rfl⟩
  | true =>
    have hthreshold : thresholdOf s.cfg b ≤ t := of_decide_eq_true hexp
    cases b <;> exact ⟨_, rfl, if_pos hthreshold⟩

/-- A step word names the two operations its own two keys select. -/
theorem decodeStepWord_eq_ok {sw : StepWord} {r q : Instr} (hr : decodeRender sw.renderKey = .ok r)
    (hq : decodeSeq sw.seqKey = .ok q) : decodeStepWord sw = .ok (r, q) := by
  rw [decodeStepWord, hr, hq]

/-- What `RENDER` alone leaves of a state. -/
def State.rendered (s : State) : State := { s with out := renderedOut s.cfg s.bidx s.tcnt s.data }

theorem execStep_frame (s : State) :
    ∃ t, execStep s = .next t ∧ t.ctl = s.ctl ∧ t.divcnt = s.divcnt ∧ t.cfg = s.cfg ∧ t.inputs = s.inputs := by
  obtain ⟨o, b, d, k, h⟩ := execStep_total s
  exact ⟨_, h, rfl, rfl, rfl, rfl⟩

/-- Settles O36: `RENDER` performs the one operation and `SEQ` the other, and `RENDER` leaves what `SEQ`'s key is made
of. -/
theorem stepPerformsBothKeyedOperations : Obligations.StepPerformsBothKeyedOperations := by
  intro s
  obtain ⟨t, ht, -⟩ := execStep_frame s
  obtain ⟨r, hr, hrender⟩ := renderPerformsTheKeyedOperation s.bidx s.tcnt s
  obtain ⟨q, hq, hseq⟩ := seq_performs s.bidx s.tcnt s.rendered
  rw [← identOf_eq_decide] at hr
  refine ⟨r, q, s.rendered, t, decodeStepWord_eq_ok ?_ ?_, hr, hq, ?_, ?_, ht⟩
  · exact s.stepWord_renderKey ▸ hr
  · exact s.stepWord_seqKey ▸ hq
  · exact hrender.symm.trans (render_eq s.bidx s.tcnt s)
  · exact hseq.symm.trans ((execStep_eq_seq s).symm.trans ht)

/-! ### The three things a `STEP` can do (R116, R125) -/

theorem thresholdOf_of_ne {b : BytePos} (hb : b ≠ .b0) (c : Config) : thresholdOf c b = c.byteTicks :=
  if_neg (mt (identOf_iff b).mp hb)

theorem State.exp_eq_false_iff (s : State) : s.exp = false ↔ s.tcnt < thresholdOf s.cfg s.bidx := by
  rw [State.exp, expOf, decide_eq_false_iff_not, Nat.not_le]

theorem execStep_of_not_exp {s : State} (h : s.exp = false) : execStep s = .next s.rendered :=
  (execStep_eq_seq s).trans (seq_hold s.rendered h)

theorem execStep_restart {s : State} (hb : s.bidx = .b0) (h : s.cfg.restartTicks ≤ s.tcnt) :
    execStep s = .next s.rendered.restartCycle := by
  rw [execStep_eq_seq, hb]
  exact hb ▸ seq_restart s.rendered h

/-- From every position but 0, `SEQ` at the threshold begins the next byte down. -/
theorem seq_placeAt {b : BytePos} {t : Nat} (s : State) (hb : b ≠ .b0) (h : s.cfg.byteTicks ≤ t) :
    seq b t s = .next (s.placeAt (nextPos b) 0) := by
  cases b
  case b0 => exact absurd rfl hb
  all_goals exact if_pos h

theorem execStep_advance {s : State} (hb : s.bidx ≠ .b0) (h : s.cfg.byteTicks ≤ s.tcnt) :
    execStep s = .next (s.rendered.placeAt (nextPos s.bidx) 0) :=
  (execStep_eq_seq s).trans (seq_placeAt s.rendered hb h)

theorem posCode_nextPos {b : BytePos} (hb : b ≠ .b0) : (posCode (nextPos b)).toNat + 1 = (posCode b).toNat := by
  cases b
  case b0 => exact absurd rfl hb
  all_goals rfl

/-- Settles O37: below the threshold a `STEP` only renders; at it there are the restart from 0 and the advance from
elsewhere. -/
theorem stepMovesTheSequencerByThreshold : Obligations.StepMovesTheSequencerByThreshold := by
  intro s
  obtain ⟨t, h, hctl, hdivcnt, hcfg, hinputs⟩ := execStep_frame s
  have hhold (hlt : s.tcnt < thresholdOf s.cfg s.bidx) : t.bidx = s.bidx ∧ t.data = s.data ∧ t.tcnt = s.tcnt := by
    obtain rfl := Host.Outcome.next.inj ((execStep_of_not_exp (s.exp_eq_false_iff.mpr hlt)).symm.trans h)
    exact ⟨rfl, rfl, rfl⟩
  refine ⟨t, h, hctl, hdivcnt, hcfg, hinputs, fun hb hlt => ?_, fun hb hle => ?_, fun hb hlt => ?_, fun hb hle => ?_⟩
  · exact hhold (hb ▸ hlt)
  · obtain rfl := Host.Outcome.next.inj ((execStep_restart hb hle).symm.trans h)
    exact ⟨rfl, rfl, rfl⟩
  · exact hhold (thresholdOf_of_ne hb s.cfg ▸ hlt)
  · obtain rfl := Host.Outcome.next.inj ((execStep_advance hb hle).symm.trans h)
    exact ⟨posCode_nextPos hb, rfl, rfl⟩

theorem execStep_rendered {s : State} (h : s.exp = false) : execStep s.rendered = .next s.rendered :=
  execStep_of_not_exp (s := s.rendered) h

/-- Settles O38: with `EXP = 0` a poll only renders, and rendering again changes nothing. -/
theorem repeatedPollChangesNothing : Obligations.RepeatedPollChangesNothing :=
  fun s h => ⟨s.rendered, execStep_of_not_exp h, execStep_rendered h⟩

/-! ### The poll that begins a cycle (R128) -/

/-- From offset 9 on the idle level is rendered. -/
theorem renderedOut_idle (cfg : Config) (b : BytePos) {t : Nat} (ht : 9 ≤ t) (d : Byte) :
    renderedOut cfg b t d = 0xFF := by
  rw [renderedOut, if_neg (by omega), if_neg (by omega)]
  rfl

theorem byteTicks_ge_ten {c : Config} (h : c.timingOk = true) : 10 ≤ c.byteTicks := by
  obtain ⟨-, hbyte, -⟩ := (Config.timingOk_iff c).mp h
  exact hbyte

theorem byteTicks_pos {c : Config} (h : c.timingOk = true) : 0 < c.byteTicks :=
  Nat.lt_of_lt_of_le (by decide) (byteTicks_ge_ten h)

/-- Every threshold lies behind the stop bit, so the poll that reaches one renders the idle level. -/
theorem State.rendered_at_threshold {s : State} (htiming : s.cfg.timingOk = true) (h : s.cfg.byteTicks ≤ s.tcnt) :
    s.rendered = { s with out := 0xFF } := by
  have hbyte := byteTicks_ge_ten htiming
  rw [State.rendered, renderedOut_idle _ _ (by omega)]

/-- The state of a cycle start, with everything but the sequencer's registers and `OUT` as in `s`. -/
def State.cycleStart (s : State) : State := { s.placeAt .b4 0 with out := 0xFF }

theorem execStep_adv4 {s : State} (htiming : s.cfg.timingOk = true) (hb : s.bidx = .b5)
    (h : s.cfg.byteTicks ≤ s.tcnt) : execStep s = .next s.cycleStart := by
  rw [execStep_advance (by simp [hb]) h, State.rendered_at_threshold htiming h, hb]
  rfl

/-- A cycle start takes from `s` only the parameters, `CTL`, `DIVCNT` and the coming samples. -/
theorem State.cycleStart_congr {s s' : State} (hcfg : s'.cfg = s.cfg) (hctl : s'.ctl = s.ctl)
    (hdivcnt : s'.divcnt = s.divcnt) (hinputs : s'.inputs = s.inputs) : s'.cycleStart = s.cycleStart := by
  simp only [State.cycleStart, State.placeAt, hcfg, hctl, hdivcnt, hinputs]

/-- Settles O40: `ADV4` at the threshold overwrites every register that the states differ in. -/
theorem cycleStartForgetsThePast : Obligations.CycleStartForgetsThePast := by
  intro s s' htiming hb hb' h h' hcfg hctl hdivcnt hinputs
  refine ⟨s.cycleStart, execStep_adv4 htiming hb h, ?_, rfl, rfl, rfl, rfl⟩
  rw [← State.cycleStart_congr hcfg hctl hdivcnt hinputs]
  exact execStep_adv4 (hcfg ▸ htiming) hb' (hcfg ▸ h')

/-! ### Runs of ticks and of polls (R129) -/

theorem runOps_cons_of_next {i : Instr} {s t : State} (h : exec i s = .next t) (rest : List Instr) :
    runOps (i :: rest) s = runOps rest t := by
  rw [runOps, h, andThen_next]

theorem runOps_step_of_next {s t : State} (h : execStep s = .next t) (rest : List Instr) :
    runOps (.step :: rest) s = runOps rest t :=
  runOps_cons_of_next (i := .step) h rest

theorem runOps_append_of_next {a : List Instr} {s t : State} (h : runOps a s = .next t) (b : List Instr) :
    runOps (a ++ b) s = runOps b t := by
  rw [runOps_append, h, andThen_next]

theorem State.takeTick_of_lt {s : State} (h : s.tcnt + 1 < 2 ^ s.cfg.width) :
    s.takeTick = { s with tcnt := s.tcnt + 1 } := by
  rw [State.takeTick, Nat.mod_eq_of_lt h]

/-- Without a wrap `TCNT` counts the ticks. -/
theorem runOps_ticks {n : Nat} {s : State} (h : s.tcnt + n < 2 ^ s.cfg.width) :
    runOps (List.replicate n .tinc) s = .next { s with tcnt := s.tcnt + n } := by
  induction n generalizing s with
  | zero => rfl
  | succ n ih =>
    have htick : exec .tinc s = .next { s with tcnt := s.tcnt + 1 } :=
      congrArg Host.Outcome.next (State.takeTick_of_lt (by omega))
    rw [List.replicate_succ, runOps_cons_of_next htick, ih (by dsimp only; omega)]
    simp only [Nat.add_assoc, Nat.add_comm 1 n]

/-- Settles O41: the ticks count up to or above the threshold, and the poll compares with `>=`. -/
theorem latePollStillAdvances : Obligations.LatePollStillAdvances := by
  intro n s hb hle hlt
  have hpoll := execStep_advance (s := { s with tcnt := s.tcnt + n }) hb hle
  have hrun := (runOps_append_of_next (runOps_ticks hlt) [.step]).trans (runOps_step_of_next hpoll [])
  exact ⟨_, hrun, posCode_nextPos hb, rfl, rfl⟩

theorem runOps_replicate_of_fixed {i : Instr} {s : State} (h : exec i s = .next s) (k : Nat) :
    runOps (List.replicate k i) s = .next s := by
  induction k with
  | zero => rfl
  | succ k ih => rw [List.replicate_succ, runOps_cons_of_next h, ih]

/-- Below the threshold any number of polls renders and changes nothing else. -/
theorem runOps_polls_hold {s : State} (h : s.tcnt < thresholdOf s.cfg s.bidx) {k : Nat} (hk : 1 ≤ k) :
    runOps (List.replicate k .step) s = .next s.rendered := by
  obtain ⟨j, rfl⟩ := Nat.exists_eq_add_of_le' hk
  have hexp := s.exp_eq_false_iff.mpr h
  rw [List.replicate_succ, runOps_step_of_next (execStep_of_not_exp hexp),
    runOps_replicate_of_fixed (i := .step) (execStep_rendered hexp)]

/-- At the threshold of a sending position one poll begins the next byte, and the further ones render it. -/
theorem runOps_polls_advance {s : State} (htiming : s.cfg.timingOk = true) (hb : s.bidx ≠ .b0)
    (h : s.cfg.byteTicks ≤ s.tcnt) {k : Nat} (hk : 2 ≤ k) :
    runOps (List.replicate k .step) s = .next (s.placeAt (nextPos s.bidx) 0).rendered := by
  obtain ⟨j, rfl⟩ := Nat.exists_eq_add_of_le' hk
  rw [List.replicate_succ, runOps_step_of_next (execStep_advance hb h),
    runOps_polls_hold (thresholdOf_pos htiming _) (by omega)]
  rfl

/-- At the end of the idle pause two polls, `RESTART` and `ADV4`, begin the next cycle. -/
theorem runOps_restart {s : State} (htiming : s.cfg.timingOk = true) (hb : s.bidx = .b0)
    (h : s.cfg.restartTicks ≤ s.tcnt) (rest : List Instr) :
    runOps (.step :: .step :: rest) s = runOps rest s.cycleStart := by
  have hbyte : s.cfg.byteTicks ≤ s.tcnt := Nat.le_trans (Nat.le_add_right _ _) h
  rw [runOps_step_of_next (execStep_restart hb h),
    runOps_step_of_next (execStep_adv4 (s := s.rendered.restartCycle) htiming rfl hbyte)]
  rfl

theorem runOps_polls_restart {s : State} (htiming : s.cfg.timingOk = true) (hb : s.bidx = .b0)
    (h : s.cfg.restartTicks ≤ s.tcnt) {k : Nat} (hk : 3 ≤ k) :
    runOps (List.replicate k .step) s = .next (s.placeAt .b4 0).rendered := by
  obtain ⟨j, rfl⟩ := Nat.exists_eq_add_of_le' hk
  rw [List.replicate_succ, List.replicate_succ, runOps_restart htiming hb h,
    runOps_polls_hold (thresholdOf_pos htiming _) (by omega)]
  rfl

/-! ### No operation fails (R130) -/

/-- Settles O51: every operation but `STEP` is one named write, `STEP` always answers, and so does every edge. -/
theorem nothingEverFaults : Obligations.NothingEverFaults := by
  constructor
  · intro i s
    cases i
    case step =>
      obtain ⟨t, h, -⟩ := execStep_frame s
      exact ⟨t, h⟩
    all_goals exact ⟨_, rfl⟩
  · intro n s htiming
    obtain ⟨t, hrun, -⟩ := core_run_total htiming n
    exact ⟨t, hrun⟩

end Sys2Proof.Machine

/-! PROOFS. The cycle of the Broadcast Sequencer (42_sequencer.md R126, R128, R131).

A tick slot that respects the polling hazard is one tick and at least three polls, and one transition of the cycle needs
at most three. So the state at the end of each slot is a function of the slot's number in the cycle. -/

namespace Sys2Proof.Machine

/-! ### One tick slot (R74, R171): a tick, and the polls after it -/

/-- A tick that no wrap turns: the rendered state at offset `t`, one offset later. -/
theorem exec_tinc_placeAt {s : State} {b : BytePos} {t : Nat} (h : t + 1 < 2 ^ s.cfg.width) :
    exec .tinc (s.placeAt b t).rendered = .next { (s.placeAt b t).rendered with tcnt := t + 1 } :=
  congrArg Host.Outcome.next (State.takeTick_of_lt (s := (s.placeAt b t).rendered) h)

section
variable {s : State} {b : BytePos} {t k : Nat}

theorem runOps_slot_hold (htiming : s.cfg.timingOk = true) (ht : t + 1 < thresholdOf s.cfg b) (hk : 1 ≤ k) :
    runOps (.tinc :: List.replicate k .step) (s.placeAt b t).rendered = .next (s.placeAt b (t + 1)).rendered := by
  rw [runOps_cons_of_next (exec_tinc_placeAt (ht.trans (thresholdOf_lt_two_pow_width htiming b)))]
  exact runOps_polls_hold (s := { (s.placeAt b t).rendered with tcnt := t + 1 }) ht hk

theorem runOps_slot_advance (htiming : s.cfg.timingOk = true) (hb : b ≠ .b0) (ht : t + 1 = s.cfg.byteTicks)
    (hk : 2 ≤ k) :
    runOps (.tinc :: List.replicate k .step) (s.placeAt b t).rendered = .next (s.placeAt (nextPos b) 0).rendered := by
  have hwidth := thresholdOf_lt_two_pow_width htiming b
  rw [thresholdOf_of_ne hb, ← ht] at hwidth
  rw [runOps_cons_of_next (exec_tinc_placeAt hwidth)]
  exact runOps_polls_advance (s := { (s.placeAt b t).rendered with tcnt := t + 1 }) htiming hb ht.ge hk

theorem runOps_slot_restart (htiming : s.cfg.timingOk = true) (ht : t + 1 = s.cfg.restartTicks) (hk : 3 ≤ k) :
    runOps (.tinc :: List.replicate k .step) (s.placeAt .b0 t).rendered = .next (s.placeAt .b4 0).rendered := by
  have hwidth : s.cfg.restartTicks < 2 ^ s.cfg.width := thresholdOf_lt_two_pow_width htiming .b0
  rw [runOps_cons_of_next (exec_tinc_placeAt (ht ▸ hwidth))]
  exact runOps_polls_restart (s := { (s.placeAt .b0 t).rendered with tcnt := t + 1 }) htiming rfl ht.ge hk

end

/-! ### The slots of the cycle (R126, R131) -/

/-- The state at the end of slot `n` of the cycle: what the sequencer has in that slot, rendered. -/
def State.atSlot (s : State) (n : Nat) : State := (s.placeAt (cycleByte s.cfg n) (cycleOffset s.cfg n)).rendered

section
variable {c : Config} {f o : Nat}

theorem cycleTicks_eq (c : Config) : c.cycleTicks = c.byteTicks * 4 + c.restartTicks := by
  unfold Config.cycleTicks Config.restartTicks
  omega

theorem cycleTicks_pos (h : c.timingOk = true) : 0 < c.cycleTicks := by
  have hbyte := byteTicks_pos h
  unfold Config.cycleTicks
  omega

/-- The cycle's byte `f` has the position that `f` advances from 4 lead to. -/
theorem cycleByte_frame (hf : f ≤ 4) (ho : o < c.byteTicks) :
    cycleByte c (c.byteTicks * f + o) = nextPos^[f] .b4 := by
  rw [cycleByte, Nat.mul_add_div (Nat.zero_lt_of_lt ho), Nat.div_eq_of_lt ho]
  interval_cases f <;> rfl

theorem cycleOffset_frame (hf : f ≤ 4) (ho : o < c.byteTicks) : cycleOffset c (c.byteTicks * f + o) = o := by
  unfold cycleOffset
  rw [Nat.mul_add_mod, Nat.mod_eq_of_lt ho]
  split
  · rfl
  · interval_cases f <;> omega

theorem cycleByte_identification (hbyte : 0 < c.byteTicks) : cycleByte c (c.byteTicks * 4 + o) = .b0 := by
  rw [cycleByte, Nat.mul_add_div hbyte, Nat.add_comm]
  rfl

theorem cycleOffset_identification : cycleOffset c (c.byteTicks * 4 + o) = o := by
  rw [cycleOffset, if_neg (by omega)]
  omega

/-- A slot of the cycle lies in one of the four identifier bytes, or in the identification byte and the pause. -/
theorem cycle_slot_cases (hbyte : 0 < c.byteTicks) {n : Nat} (hn : n < c.cycleTicks) :
    (∃ f o, f < 4 ∧ o < c.byteTicks ∧ n = c.byteTicks * f + o) ∨
      ∃ o, o < c.restartTicks ∧ n = c.byteTicks * 4 + o := by
  rw [cycleTicks_eq] at hn
  rcases Nat.lt_or_ge n (c.byteTicks * 4) with h | h
  · exact .inl ⟨n / c.byteTicks, n % c.byteTicks, Nat.div_lt_of_lt_mul h, Nat.mod_lt n hbyte,
      (Nat.div_add_mod n c.byteTicks).symm⟩
  · exact .inr ⟨n - c.byteTicks * 4, by omega, by omega⟩

theorem nextPos_iterate_ne (hf : f < 4) : nextPos^[f] .b4 ≠ .b0 := by
  interval_cases f <;> decide

end

section
variable {s : State} {f o : Nat}

theorem State.atSlot_frame (hf : f ≤ 4) (ho : o < s.cfg.byteTicks) :
    s.atSlot (s.cfg.byteTicks * f + o) = (s.placeAt (nextPos^[f] .b4) o).rendered := by
  rw [State.atSlot, cycleByte_frame hf ho, cycleOffset_frame hf ho]

theorem State.atSlot_identification (hbyte : 0 < s.cfg.byteTicks) :
    s.atSlot (s.cfg.byteTicks * 4 + o) = (s.placeAt .b0 o).rendered := by
  rw [State.atSlot, cycleByte_identification hbyte, cycleOffset_identification]

theorem State.atSlot_zero (hbyte : 0 < s.cfg.byteTicks) : s.atSlot 0 = (s.placeAt .b4 0).rendered :=
  State.atSlot_frame (f := 0) (o := 0) (by decide) hbyte

/-- A tick and three polls lead from each slot of the cycle to the next, and from the last to the first. -/
theorem runOps_slot (htiming : s.cfg.timingOk = true) {n k : Nat} (hn : n < s.cfg.cycleTicks) (hk : 3 ≤ k) :
    runOps (.tinc :: List.replicate k .step) (s.atSlot n) = .next (s.atSlot ((n + 1) % s.cfg.cycleTicks)) := by
  have hbyte := byteTicks_pos htiming
  have hcycle := cycleTicks_eq s.cfg
  obtain ⟨f, o, hf, ho, rfl⟩ | ⟨o, ho, rfl⟩ := cycle_slot_cases hbyte hn
  · have hinside : s.cfg.byteTicks * (f + 1) ≤ s.cfg.byteTicks * 4 := Nat.mul_le_mul_left _ hf
    rw [Nat.mul_succ] at hinside
    have hpause : s.cfg.byteTicks ≤ s.cfg.restartTicks := Nat.le_add_right _ _
    have hb := nextPos_iterate_ne hf
    rw [Nat.mod_eq_of_lt (by omega), State.atSlot_frame hf.le ho]
    rcases Nat.lt_or_ge (o + 1) s.cfg.byteTicks with hlt | hge
    · rw [Nat.add_assoc, State.atSlot_frame hf.le hlt]
      exact runOps_slot_hold htiming ((thresholdOf_of_ne hb s.cfg).symm ▸ hlt) (by omega)
    · have hlast : o + 1 = s.cfg.byteTicks := by omega
      have hnext : s.cfg.byteTicks * f + o + 1 = s.cfg.byteTicks * (f + 1) + 0 := by
        rw [Nat.add_assoc, hlast, Nat.mul_succ, Nat.add_zero]
      rw [hnext, State.atSlot_frame hf hbyte, Function.iterate_succ_apply']
      exact runOps_slot_advance htiming hb hlast (by omega)
  · rw [State.atSlot_identification hbyte]
    rcases Nat.lt_or_ge (o + 1) s.cfg.restartTicks with hlt | hge
    · rw [Nat.mod_eq_of_lt (by omega), Nat.add_assoc, State.atSlot_identification hbyte]
      exact runOps_slot_hold htiming hlt (by omega)
    · have hwrap : s.cfg.byteTicks * 4 + o + 1 = s.cfg.cycleTicks := by omega
      rw [hwrap, Nat.mod_self, State.atSlot_zero hbyte]
      exact runOps_slot_restart htiming (by omega) hk

end

/-! ### The cycle law (R126) and the cycle's return (R128) -/

theorem fullSlots_succ (polls : Nat → Nat) (n : Nat) :
    fullSlots polls (n + 1) = throughSlot polls n ++ [.tinc] := rfl

theorem throughSlot_succ (polls : Nat → Nat) (m : Nat) :
    throughSlot polls (m + 1) = throughSlot polls m ++ .tinc :: List.replicate (polls (m + 1)) .step := by
  rw [throughSlot, fullSlots_succ, List.append_assoc]
  rfl

theorem State.atCycleStart.eq_cycleStart {s : State} (h : s.atCycleStart) : s = s.cycleStart := by
  obtain ⟨htcnt, hbidx, hdata, hout⟩ := h
  cases s
  simp_all [State.cycleStart, State.placeAt, payloadOf]

/-- From a cycle start, with the hazard respected, the last poll of slot `m` leaves slot `m` of the cycle. -/
theorem runOps_throughSlot {s : State} {polls : Nat → Nat} (htiming : s.cfg.timingOk = true) (hstart : s.atCycleStart)
    (hpolls : PolledEnough polls) (m : Nat) :
    runOps (throughSlot polls m) s = .next (s.atSlot (m % s.cfg.cycleTicks)) := by
  obtain ⟨hfirst, hlater⟩ := hpolls
  induction m with
  | zero =>
    rw [Nat.zero_mod, State.atSlot_zero (byteTicks_pos htiming)]
    calc runOps (throughSlot polls 0) s
      _ = runOps (List.replicate (polls 0) .step) s.cycleStart := congrArg (runOps _) hstart.eq_cycleStart
      _ = .next s.cycleStart.rendered :=
        runOps_polls_hold (s := s.cycleStart) (thresholdOf_pos htiming .b4) hfirst
  | succ m ih =>
    rw [throughSlot_succ, runOps_append_of_next ih,
      runOps_slot htiming (Nat.mod_lt m (cycleTicks_pos htiming)) (hlater (m + 1) (Nat.succ_pos m)), Nat.mod_add_mod]

/-- Settles O42: the state of slot `m` of the cycle has its byte, its offset and its payload by definition. -/
theorem cycleLaw : Obligations.CycleLaw := by
  intro s polls m htiming _ hstart hpolls
  exact ⟨_, runOps_throughSlot htiming hstart hpolls m, rfl, rfl, rfl⟩

/-- Two polls after the last slot of the cycle the engine is back in the state it started in. -/
theorem runOps_fullCycle {s : State} {polls : Nat → Nat} (htiming : s.cfg.timingOk = true) (hstart : s.atCycleStart)
    (hpolls : PolledEnough polls) : runOps (fullSlots polls s.cfg.cycleTicks ++ [.step, .step]) s = .next s := by
  have hbyte := byteTicks_pos htiming
  have hwidth : s.cfg.restartTicks < 2 ^ s.cfg.width := thresholdOf_lt_two_pow_width htiming .b0
  obtain ⟨o, ho⟩ := Nat.exists_eq_succ_of_ne_zero (thresholdOf_pos htiming .b0).ne'
  change s.cfg.restartTicks = o + 1 at ho
  have hcycle : s.cfg.cycleTicks = s.cfg.byteTicks * 4 + o + 1 := by rw [cycleTicks_eq, ho, Nat.add_assoc]
  have hlast := runOps_throughSlot htiming hstart hpolls (s.cfg.byteTicks * 4 + o)
  rw [Nat.mod_eq_of_lt (by omega), State.atSlot_identification hbyte] at hlast
  have htick := exec_tinc_placeAt (s := s) (b := .b0) (ho ▸ hwidth)
  calc runOps (fullSlots polls s.cfg.cycleTicks ++ [.step, .step]) s
    _ = runOps [.tinc, .step, .step] (s.placeAt .b0 o).rendered := by
      rw [hcycle, fullSlots_succ, List.append_assoc, runOps_append_of_next hlast]
      rfl
    _ = runOps [.step, .step] { (s.placeAt .b0 o).rendered with tcnt := o + 1 } := runOps_cons_of_next htick _
    _ = .next s.cycleStart :=
      runOps_restart (s := { (s.placeAt .b0 o).rendered with tcnt := o + 1 }) htiming rfl ho.le []
    _ = .next s := congrArg Host.Outcome.next hstart.eq_cycleStart.symm

end Sys2Proof.Machine

/-! PROOFS. The payloads of the Broadcast Sequencer (42_sequencer.md R127).

Which load comes next is a matter of the byte position alone, so the order of the loads holds whatever the polling. -/

namespace Sys2Proof.Machine

/-! ### The load of one poll (R118 to R122) -/

/-- The operations that load a payload. -/
def loadOps : List Instr := [.adv4, .adv3, .adv2, .adv1, .adv0]

theorem payloadLoads_step {s t : State} {q : Instr} (h : execStep s = .next t) (hq : decodeSeq s.seqKey = .ok q)
    (rest : List Instr) :
    payloadLoads (.step :: rest) s = (if q ∈ loadOps then [(q, t.data)] else []) ++ payloadLoads rest t := by
  have h' : exec .step s = .next t := h
  simp only [payloadLoads, h', hq]
  rfl

theorem payloadLoads_of_ne_step {i : Instr} {s t : State} (hi : i ≠ .step) (h : exec i s = .next t)
    (rest : List Instr) : payloadLoads (i :: rest) s = payloadLoads rest t := by
  simp only [payloadLoads, h]
  split
  · exact absurd rfl hi
  · rfl

/-- Below the threshold `SEQ` loads nothing. -/
theorem decodeSeq_hold_key (b : BytePos) :
    ∃ q, decodeSeq (posCode b ++ BitVec.ofBool false) = .ok q ∧ q ∉ loadOps := by
  cases b <;> exact ⟨_, rfl, by decide⟩

/-- At the threshold of a sending position `SEQ` makes the load of the cycle that is next there. -/
theorem decodeSeq_advance_key {b : BytePos} (hb : b ≠ .b0) (cfg : Config) :
    ∃ q ∈ loadOps, decodeSeq (posCode b ++ BitVec.ofBool true) = .ok q ∧
      (q, payloadOf cfg (nextPos b)) = cycleLoad cfg (nextLoad b) ∧
      nextLoad (nextPos b) = (nextLoad b + 1) % 5 := by
  cases b
  case b0 => exact absurd rfl hb
  all_goals exact ⟨_, by decide, rfl, rfl, rfl⟩

/-- A poll either makes the next load of the cycle, or none and leaves which is next. -/
theorem payloadLoads_poll (s : State) (rest : List Instr) :
    ∃ t, t.cfg = s.cfg ∧
      ((payloadLoads (.step :: rest) s = payloadLoads rest t ∧ nextLoad t.bidx = nextLoad s.bidx) ∨
        (payloadLoads (.step :: rest) s = cycleLoad s.cfg (nextLoad s.bidx) :: payloadLoads rest t ∧
          nextLoad t.bidx = (nextLoad s.bidx + 1) % 5)) := by
  cases hexp : s.exp with
  | false =>
    obtain ⟨q, hq, hnone⟩ := decodeSeq_hold_key s.bidx
    refine ⟨s.rendered, rfl, .inl ⟨?_, rfl⟩⟩
    rw [payloadLoads_step (execStep_of_not_exp hexp) (by rw [State.seqKey, hexp, hq]), if_neg hnone, List.nil_append]
  | true =>
    have hthreshold : thresholdOf s.cfg s.bidx ≤ s.tcnt := of_decide_eq_true hexp
    by_cases hb : s.bidx = .b0
    · rw [hb] at hthreshold
      have hrestart := execStep_restart hb hthreshold
      have hkey : decodeSeq s.seqKey = .ok .restart := by
        rw [State.seqKey, hexp, hb]
        rfl
      exact ⟨s.rendered.restartCycle, rfl, .inl ⟨payloadLoads_step hrestart hkey rest, by rw [hb]; rfl⟩⟩
    · obtain ⟨q, hload, hq, hpayload, hnext⟩ := decodeSeq_advance_key hb s.cfg
      rw [thresholdOf_of_ne hb] at hthreshold
      refine ⟨s.rendered.placeAt (nextPos s.bidx) 0, rfl, .inr ⟨?_, hnext⟩⟩
      rw [payloadLoads_step (execStep_advance hb hthreshold) (by rw [State.seqKey, hexp, hq]), if_pos hload, ← hpayload]
      rfl

/-! ### The loads of a run (R127) -/

/-- Along every run without `RESET` the payload loads follow the order of the cycle from where it stands. -/
theorem payloadLoads_getElem? {events : List Instr} {s : State}
    (hevents : ∀ i ∈ events, i = .step ∨ i = .tinc ∨ i = .divclk ∨ ∃ v, i = .cfgw v) {k : Nat} {x : Instr × Byte}
    (hx : (payloadLoads events s)[k]? = some x) : x = cycleLoad s.cfg ((nextLoad s.bidx + k) % 5) := by
  induction events generalizing s k with
  | nil => cases hx
  | cons i rest ih =>
    obtain ⟨hi, hrest⟩ := List.forall_mem_cons.mp hevents
    have hkeep {t : State} (hne : i ≠ .step) (h : exec i s = .next t) (hcfg : t.cfg = s.cfg) (hb : t.bidx = s.bidx) :
        x = cycleLoad s.cfg ((nextLoad s.bidx + k) % 5) := by
      rw [payloadLoads_of_ne_step hne h] at hx
      rw [← hcfg, ← hb]
      exact ih hrest hx
    obtain rfl | rfl | rfl | ⟨v, rfl⟩ := hi
    · obtain ⟨t, hcfg, ⟨heq, hnext⟩ | ⟨heq, hnext⟩⟩ := payloadLoads_poll s rest
      · rw [heq] at hx
        rw [← hcfg, ← hnext]
        exact ih hrest hx
      · rw [heq] at hx
        cases k with
        | zero =>
          have hlt : nextLoad s.bidx < 5 := by cases s.bidx <;> decide
          rw [Nat.add_zero, Nat.mod_eq_of_lt hlt]
          exact (Option.some.inj hx).symm
        | succ k =>
          have hturn : (nextLoad s.bidx + (k + 1)) % 5 = (nextLoad t.bidx + k) % 5 := by omega
          rw [hturn, ← hcfg]
          exact ih hrest hx
    · exact hkeep (by decide) rfl rfl rfl
    · exact hkeep (by decide) rfl rfl rfl
    · exact hkeep (by simp) rfl rfl rfl

theorem cycleLoad_mem (cfg : Config) (n : Nat) :
    cycleLoad cfg n ∈ [(Instr.adv4, idByte cfg 3), (.adv3, idByte cfg 2), (.adv2, idByte cfg 1),
      (.adv1, idByte cfg 0), (.adv0, 0x00)] := by
  unfold cycleLoad
  split <;> simp

/-- The four bytes of the Device Identifier, most significant first (20_memory.md R42). -/
theorem idBytes_append (cfg : Config) :
    idByte cfg 3 ++ idByte cfg 2 ++ idByte cfg 1 ++ idByte cfg 0 = cfg.devid := by
  unfold idByte
  rw [BitVec.extractLsb'_append_extractLsb'_eq_extractLsb' (start₂ := 8 * 3) (start₁ := 8 * 2) rfl,
    BitVec.extractLsb'_append_extractLsb'_eq_extractLsb' (start₂ := 8 * 2) (start₁ := 8 * 1) rfl,
    BitVec.extractLsb'_append_extractLsb'_eq_extractLsb' (start₂ := 8 * 1) (start₁ := 8 * 0) rfl]
  exact BitVec.extractLsb'_eq_self

/-- Settles O39: the loads follow the cycle, by induction on the events; and each of its operations loads its own byte
of `DEVID`. -/
theorem payloadsConcatenateToDeviceIdentifier : Obligations.PayloadsConcatenateToDeviceIdentifier := by
  intro events s hevents
  refine ⟨fun k q d hload => payloadLoads_getElem? hevents hload, fun k d3 d2 d1 d0 z htake => ?_⟩
  have hbyte (x : Instr × Byte) (hx : x ∈ [(.adv4, d3), (.adv3, d2), (.adv2, d1), (.adv1, d0), (.adv0, z)]) :=
    have hmem := List.mem_of_mem_drop (List.mem_of_mem_take (htake ▸ hx))
    have ⟨n, hn⟩ := List.getElem?_of_mem hmem
    payloadLoads_getElem? hevents hn ▸ cycleLoad_mem s.cfg _
  have h3 : d3 = idByte s.cfg 3 := by simpa using hbyte (.adv4, d3) (by simp)
  have h2 : d2 = idByte s.cfg 2 := by simpa using hbyte (.adv3, d2) (by simp)
  have h1 : d1 = idByte s.cfg 1 := by simpa using hbyte (.adv2, d1) (by simp)
  have h0 : d0 = idByte s.cfg 0 := by simpa using hbyte (.adv1, d0) (by simp)
  have hz : z = 0x00 := by simpa using hbyte (.adv0, z) (by simp)
  rw [h3, h2, h1, h0]
  exact ⟨idBytes_append s.cfg, hz⟩

end Sys2Proof.Machine

/-! PROOFS. The period of the polled clock (42_sequencer.md R126, R128, 70_reset_and_hazards.md R171, R177).

With `step` held at 1, each edge carries a poll, and every `DIV`th a tick. The events of whole tick slots are then a
polling that respects the hazard, and the cycle's return at the event level is one at the clock level. -/

namespace Sys2Proof.Machine

/-! ### The events of the polled edges (40_tick_clock.md R83, 43_system.md R138) -/

/-- The events of an edge that samples a poll, from its phase: the number of edges since the divider's count was 0. -/
def edgeEvents (div phase : Nat) : List Instr := .step :: if div ∣ phase + 1 then [.tinc] else []

/-- The events of `n` edges in a row that all sample a poll, the first of phase `e`. -/
def polledEdges (div e n : Nat) : List Instr := (List.range' e n).flatMap (edgeEvents div)

theorem polledEdges_succ (div e n : Nat) :
    polledEdges div e (n + 1) = edgeEvents div e ++ polledEdges div (e + 1) n := rfl

theorem State.eventsAt_poll (s : State) : s.eventsAt Ports.poll = .step :: if s.tick then [.tinc] else [] := by
  rw [State.eventsAt_eq]
  cases s.tick <;> rfl

/-- With `step` held at 1 and the ticks enabled, the edges carry the events of their phases. -/
theorem clockEvents_polled {n e : Nat} {s : State} {rest : List Ports} (htiming : s.cfg.timingOk = true)
    (hen : s.ticksEnabled = true) (hdivcnt : s.divcnt = e % s.cfg.div)
    (hinputs : s.inputs = List.replicate n Ports.poll ++ rest) :
    clockEvents n s = polledEdges s.cfg.div e n ∧
      ∃ t, Sys2Proof.core.run n s = .next t ∧ t.divcnt = (e + n) % s.cfg.div ∧ t.inputs = rest := by
  obtain ⟨hdiv, -, -⟩ := (Config.timingOk_iff s.cfg).mp htiming
  induction n generalizing s e with
  | zero => exact ⟨rfl, s, rfl, hdivcnt, hinputs⟩
  | succ n ih =>
    have hports : s.ports = Ports.poll := by rw [State.ports, hinputs]; rfl
    obtain ⟨t, hstep, hcfg, htail⟩ := step_total htiming
    obtain ⟨hctl, hcount⟩ := step_frame hstep (hports ▸ rfl)
    have hlt : s.divcnt < s.cfg.div := hdivcnt ▸ Nat.mod_lt e hdiv
    have hevents : s.eventsAt s.ports = edgeEvents s.cfg.div e := by
      rw [hports, State.eventsAt_poll, edgeEvents]
      simp only [State.tick_iff hdiv hen, hdivcnt, mod_succ_eq_iff_dvd hdiv]
    obtain ⟨hclock, u, hrun, hu, hrest⟩ := ih (s := t) (e := e + 1) (hcfg ▸ htiming)
      ((State.ticksEnabled_congr (hctl.trans (hports ▸ rfl))).trans hen)
      (by rw [hcount, State.advanceDivider_mod (State.arm_of_ticksEnabled hen) hlt, hdivcnt, hcfg, Nat.mod_add_mod])
      (by rw [htail, hinputs]; rfl) (hcfg ▸ hdiv)
    refine ⟨?_, u, ?_, ?_, hrest⟩
    · rw [clockEvents, hstep, hevents, polledEdges_succ, ← hcfg, ← hclock]
    · rw [core_run_succ, hstep]
      exact hrun
    · rw [hu, hcfg, Nat.add_assoc, Nat.add_comm 1 n]

/-! ### Tick slots of `DIV` edges -/

theorem polledEdges_add (div e m n : Nat) :
    polledEdges div e (m + n) = polledEdges div e m ++ polledEdges div (e + m) n := by
  rw [polledEdges, ← List.range'_append_1, List.flatMap_append]
  rfl

/-- Edges before the last of a tick slot are polls alone. -/
theorem polledEdges_within {div i a n : Nat} (h : a + n < div) :
    polledEdges div (div * i + a) n = List.replicate n .step := by
  induction n generalizing a with
  | zero => rfl
  | succ n ih =>
    have hquiet : ¬ div ∣ div * i + a + 1 := by
      rw [Nat.add_assoc, Nat.dvd_add_right (Nat.dvd_mul_right div i)]
      exact Nat.not_dvd_of_pos_of_lt (Nat.succ_pos a) (by omega)
    rw [polledEdges_succ, edgeEvents, if_neg hquiet, Nat.add_assoc, ih (by omega)]
    rfl

/-- The rest of a tick slot, its tick included. -/
theorem polledEdges_slot {div i a n : Nat} (hn : 0 < n) (h : a + n = div) :
    polledEdges div (div * i + a) n = List.replicate n .step ++ [.tinc] := by
  obtain ⟨n, rfl⟩ := Nat.exists_eq_add_of_le' hn
  rw [polledEdges_add, polledEdges_within (by omega), List.replicate_succ', List.append_assoc]
  have hlast : div ∣ div * i + a + n + 1 := ⟨i + 1, by rw [Nat.mul_succ]; omega⟩
  simp [polledEdges, edgeEvents, hlast]

/-- The polls in each tick slot of a run that begins two edges into its first. -/
def slotPolls (div i : Nat) : Nat := if i = 0 then div - 2 else div

theorem slotPolls_enough {div : Nat} (hdiv : 3 ≤ div) : PolledEnough (slotPolls div) := by
  refine ⟨by simp only [slotPolls, if_true]; omega, fun i hi => ?_⟩
  rw [slotPolls, if_neg (by omega)]
  exact hdiv

/-- Two edges into slot 0, the rest of it and `n` more slots: the next edge begins slot `n + 1`. -/
theorem phase_after_slots {div : Nat} (hdiv : 3 ≤ div) (n : Nat) : 2 + (div * n + (div - 2)) = div * (n + 1) + 0 := by
  rw [Nat.mul_succ]
  omega

/-- From phase 2 on the edges fill whole tick slots, the first of them short by two polls. -/
theorem polledEdges_fullSlots {div : Nat} (hdiv : 3 ≤ div) (n : Nat) :
    polledEdges div 2 (div * n + (div - 2)) = fullSlots (slotPolls div) (n + 1) := by
  induction n with
  | zero =>
    have hfirst := polledEdges_slot (div := div) (i := 0) (a := 2) (n := div - 2) (by omega) (by omega)
    rw [Nat.mul_zero, Nat.zero_add] at hfirst ⊢
    exact hfirst
  | succ n ih =>
    have hslot := polledEdges_slot (div := div) (i := n + 1) (a := 0) (n := div) (by omega) (by omega)
    have hlater : slotPolls div (n + 1) = div := if_neg (Nat.succ_ne_zero n)
    rw [Nat.mul_succ, Nat.add_right_comm, polledEdges_add, ih, phase_after_slots hdiv, hslot, ← List.append_assoc,
      fullSlots_succ _ (n + 1), throughSlot, hlater]

/-- `DIV` edges per slot of the cycle: the two polls before the start come last. -/
theorem polledEdges_cycle {div cycle : Nat} (hdiv : 3 ≤ div) (hcycle : 0 < cycle) :
    polledEdges div 2 (div * cycle) = fullSlots (slotPolls div) cycle ++ [.step, .step] := by
  obtain ⟨n, rfl⟩ := Nat.exists_eq_add_of_le' hcycle
  have hedges : div * (n + 1) = div * n + (div - 2) + 2 := by
    rw [Nat.mul_succ]
    omega
  rw [hedges, polledEdges_add, polledEdges_fullSlots hdiv, phase_after_slots hdiv, polledEdges_within (by omega)]
  rfl

/-! ### The period of the machine -/

theorem State.contractMet.ticksEnabled {s : State} (h : s.contractMet) : s.ticksEnabled = true := by
  unfold State.contractMet at h
  simp only [State.ticksEnabled, State.arm, State.tie, State.gie, h]
  decide

/-- Settles O58: the machine performs the events of its edges, these are a polling that respects the hazard, and the
divider's count returns too. -/
theorem clockLevelCycleIsExact : Obligations.ClockLevelCycleIsExact := by
  intro s rest htiming hdiv hcontract hstart hdivcnt hinputs
  have hphase : s.divcnt = 2 % s.cfg.div := by rw [hdivcnt, Nat.mod_eq_of_lt hdiv]
  obtain ⟨hevents, t, hrun, htdivcnt, htinputs⟩ :=
    clockEvents_polled htiming hcontract.ticksEnabled hphase hinputs
  obtain ⟨u, hu, ht⟩ := core_run_eventRun hrun
  have hback := hu.runOps_eq
  rw [hevents, polledEdges_cycle hdiv (cycleTicks_pos htiming),
    runOps_fullCycle htiming hstart (slotPolls_enough hdiv)] at hback
  obtain rfl := Host.Outcome.next.inj hback
  rw [hrun, ht, htinputs, htdivcnt, Nat.add_mul_mod_self_left, ← hphase]
  rfl

end Sys2Proof.Machine

/-! PROOFS. Family S and the clock edge (43_system.md): `RESET`, `CFGW`, and the events that one edge performs.

An edge is the run of the operations its event vector selects; the write comes last of them and the tick after the
poll, so an edge with either is the edge without it and then that operation. -/

namespace Sys2Proof.Machine

/-! ### The host operations (R135, R136) -/

/-- Settles O44: the operation is `resetRegisters`. -/
theorem resetRestoresEveryRegister : Obligations.ResetRestoresEveryRegister := fun _ => rfl

/-- Settles O45: the operation is `writeCtl`. -/
theorem configWriteSetsControlOnly : Obligations.ConfigWriteSetsControlOnly := fun _ _ => rfl

/-! ### An edge is the run of its operations (R137, R138) -/

theorem andThen_assoc (o : Host.Outcome State Fault Refusal) (f g : State → Host.Outcome State Fault Refusal) :
    andThen (andThen o f) g = andThen o fun s => andThen (f s) g := by
  cases o <;> rfl

/-- The run of an operation that falls only where its event does. -/
theorem runOps_optional (b : Bool) (i : Instr) :
    runOps (if b then [i] else []) = fun s => if b then exec i s else .next s := by
  funext s
  cases b with
  | false => rfl
  | true =>
    show andThen (exec i s) (runOps []) = exec i s
    cases exec i s <;> rfl

/-- The operations the edge's vector selects; the tick bit is 0 at an edge with `rst`, which selects `RESET` alone
anyway. -/
theorem decodeEvents_eventVector (p : Ports) (s : State) :
    decodeEvents (s.eventVector p) p.cfgWdata = if p.rst then [.reset] else
      (if p.step then [Instr.step] else []) ++ [.divclk] ++ (if s.tick then [Instr.tinc] else []) ++
        (if p.cfgWe then [.cfgw p.cfgWdata] else []) := by
  refine (eventVectorSelectsInOrder p.rst p.cfgWe p.step (!p.rst && s.tick) p.cfgWdata).trans ?_
  cases p.rst <;> rfl

theorem clkEdge_eq_runOps (p : Ports) (s : State) :
    clkEdge p s = runOps (decodeEvents (s.eventVector p) p.cfgWdata) s := by
  rw [decodeEvents_eventVector]
  cases hrst : p.rst with
  | true => exact clkEdge_reset hrst s
  | false =>
    simp only [Bool.false_eq_true, if_false, runOps_append, andThen_assoc, runOps_optional, clkEdge, hrst]
    rfl

/-- Settles O46: the sample an edge uses up is not part of what its vector is formed from. -/
theorem stepRunsTheDecodedEvents : Obligations.StepRunsTheDecodedEvents :=
  fun s htiming => (step_of_timingOk htiming).trans (clkEdge_eq_runOps s.ports s.nextPorts)

/-- Settles O47: a clock edge with `rst` is `RESET` alone. -/
theorem resetEdgeIgnoresEverythingElse : Obligations.ResetEdgeIgnoresEverythingElse :=
  fun s htiming hrst => (step_of_timingOk htiming).trans (clkEdge_reset hrst s.nextPorts)

/-! ### The write comes last (R138(d), (e)) -/

/-- The tick of the edge is formed before it, so the write can only follow it. -/
theorem clkEdge_write {p : Ports} (hrst : p.rst = false) (v : CtlWord) (s : State) :
    clkEdge { p with cfgWe := true, cfgWdata := v } s =
      andThen (clkEdge { p with cfgWe := false } s) (exec (.cfgw v)) := by
  simp only [clkEdge, hrst, Bool.false_eq_true, if_false, if_true, andThen_assoc, andThen_next]
  rfl

/-- Settles O49: the edge without the write always answers, and the write is performed from what it leaves. -/
theorem configWriteActsFromTheNextEdge : Obligations.ConfigWriteActsFromTheNextEdge := by
  intro p v s hrst
  obtain ⟨t, hedge, -⟩ := clkEdge_frame (p := { p with cfgWe := false }) hrst s
  exact ⟨t, hedge, by rw [clkEdge_write hrst, hedge, andThen_next]⟩

/-! ### A poll and a tick on one edge (R138(a) to (c)) -/

/-- A poll that begins no byte, be it that it holds or restarts the cycle, leaves `TCNT`. -/
theorem execStep_keeps_tcnt {s u : State} (hkeep : s.bidx = .b0 ∨ s.tcnt < s.cfg.byteTicks)
    (h : execStep s = .next u) : u.tcnt = s.tcnt := by
  by_cases hb : s.bidx = .b0
  · obtain rfl := Host.Outcome.next.inj ((execStep_identification hb s.data).symm.trans h)
    rfl
  · have hexp : s.exp = false :=
      s.exp_eq_false_iff.mpr (thresholdOf_of_ne hb s.cfg ▸ hkeep.resolve_left hb)
    obtain rfl := Host.Outcome.next.inj ((execStep_of_not_exp hexp).symm.trans h)
    rfl

/-- A poll that begins a byte clears `TCNT`. -/
theorem execStep_clears_tcnt {s u : State} (hb : s.bidx ≠ .b0) (hthreshold : s.cfg.byteTicks ≤ s.tcnt)
    (h : execStep s = .next u) : u.tcnt = 0 := by
  obtain rfl := Host.Outcome.next.inj ((execStep_advance hb hthreshold).symm.trans h)
  rfl

/-- An edge with a poll and a tick increments the `TCNT` that the poll leaves, and keeps the rest of what the poll
does. -/
theorem step_poll_tick {s u : State} (htiming : s.cfg.timingOk = true) (hrst : s.ports.rst = false)
    (hpoll : s.ports.step = true) (htick : s.tick = true) (hu : execStep s = .next u) :
    ∃ t, step s = .next t ∧ t.bidx = u.bidx ∧ t.data = u.data ∧ t.out = u.out ∧
      t.tcnt = (u.tcnt + 1) % 2 ^ s.cfg.width := by
  have hpolled : execStep s.nextPorts = .next (u.withClock s.divcnt s.inputs.tail) :=
    execStep_withClock hu s.divcnt s.inputs.tail
  obtain ⟨s₁, hs₁, hedge⟩ := clkEdge_run hrst s.nextPorts
  rw [hpoll, if_pos rfl] at hs₁
  obtain rfl := Host.Outcome.next.inj (hpolled.symm.trans hs₁)
  obtain ⟨u', hu', -, -, hcfg, -⟩ := execStep_frame s
  obtain rfl := Host.Outcome.next.inj (hu.symm.trans hu')
  have htick' : s.nextPorts.tick = true := htick
  refine ⟨_, (step_of_timingOk htiming).trans hedge, ?_⟩
  rw [htick', ← hcfg]
  cases s.ports.cfgWe <;> exact ⟨rfl, rfl, rfl, rfl⟩

/-- Settles O48: the tick increments what the poll leaves, which is 0 or the old count; 1 does not wrap, as `TCNT` can
hold more than `BYTE_TICKS`. -/
theorem pollAndTickOnOneEdge : Obligations.PollAndTickOnOneEdge := by
  intro s htiming hrst hpoll htick
  obtain ⟨u, hu, -⟩ := execStep_frame s
  obtain ⟨t, hstep, hbidx, hdata, hout, htcnt⟩ := step_poll_tick htiming hrst hpoll htick hu
  refine ⟨u, t, hu, hstep, hbidx, hdata, hout, fun hb hthreshold => ?_, fun hkeep => ?_⟩
  · have hwidth : 1 < 2 ^ s.cfg.width := by
      have hten := byteTicks_ge_ten htiming
      have hlt := thresholdOf_lt_two_pow_width htiming s.bidx
      rw [thresholdOf_of_ne hb] at hlt
      omega
    rw [htcnt, execStep_clears_tcnt hb hthreshold hu, Nat.zero_add, Nat.mod_eq_of_lt hwidth]
  · rw [htcnt, execStep_keeps_tcnt hkeep hu]

end Sys2Proof.Machine

/-! PROOFS. Exceptions and boundaries (60_exceptions.md): expiries while the interrupt is masked.

At edges without a strobe only the Tick Clock moves. What such a run does to the divider and to `TCNT` is proved once,
for masked and for enabled ticks; the masked edges and those after the enabling edge are its two uses. -/

namespace Sys2Proof.Machine

/-! ### One edge -/

theorem State.arm_congr {s t : State} (h : t.ctl = s.ctl) : t.arm = s.arm :=
  congrArg (BitVec.getLsbD · 8) h

/-- Where the interrupt cannot be taken no edge ticks, whatever the divider does (60_exceptions.md R150). -/
theorem State.tick_of_not_ticksEnabled {s : State} (h : s.ticksEnabled = false) : s.tick = false :=
  Bool.eq_false_iff.mpr fun htick => Bool.eq_false_iff.mp h (State.ticksEnabled_of_tick htick)

theorem State.ticksEnabled_of_masked {s : State} (h : s.tie = false ∨ s.gie = false) : s.ticksEnabled = false := by
  rcases h with h | h <;> simp only [State.ticksEnabled, h, Bool.and_false, Bool.false_and]

theorem Ports.quiet_idle : Ports.idle.quiet := ⟨rfl, rfl, rfl⟩

/-- An edge without a strobe leaves `CTL` and what belongs to the polling loop. -/
theorem step_quiet {s t : State} (h : step s = .next t) (hquiet : s.ports.quiet) :
    t.ctl = s.ctl ∧ t.bidx = s.bidx ∧ t.out = s.out := by
  obtain ⟨hrst, hwe, hpoll⟩ := hquiet
  obtain ⟨hbidx, -, hout⟩ := clkEdge_unpolled (s := s.nextPorts) hrst hpoll (clkEdge_of_step h)
  exact ⟨clkEdge_ctl_of_no_write (s := s.nextPorts) hrst hwe (clkEdge_of_step h), hbidx, hout⟩

theorem step_divcnt_lt {s t : State} (h : step s = .next t) (hlt : s.divcnt < s.cfg.div) : t.divcnt < t.cfg.div := by
  have hedge := clkEdge_of_step h
  rw [clkEdge_cfg hedge]
  exact clkEdge_divcnt_lt hedge hlt

/-! ### A run of edges without a strobe (R81, R83, R150) -/

/-- What `n` edges without a strobe have done from any count of the divider: an armed divider has counted on, and `TCNT`
holds their ticks if the interrupt can be taken, else nothing new. -/
structure QuietRun (n : Nat) (s t : State) : Prop where
  run : Sys2Proof.core.run n s = .next t
  cfg : t.cfg = s.cfg
  inputs : t.inputs = s.inputs.drop n
  ctl : t.ctl = s.ctl
  bidx : t.bidx = s.bidx
  out : t.out = s.out
  divcnt_lt : s.divcnt < s.cfg.div → t.divcnt < t.cfg.div
  divcnt : s.arm = true → s.divcnt < s.cfg.div → t.divcnt = (s.divcnt + n) % s.cfg.div
  tcnt_disabled : s.ticksEnabled = false → t.tcnt = s.tcnt
  tcnt_enabled : s.ticksEnabled = true → s.divcnt < s.cfg.div → s.tcnt < 2 ^ s.cfg.width →
    t.tcnt = (s.tcnt + (s.divcnt + n) / s.cfg.div) % 2 ^ s.cfg.width

theorem QuietRun.zero (s : State) : QuietRun 0 s s where
  run := rfl
  cfg := rfl
  inputs := rfl
  ctl := rfl
  bidx := rfl
  out := rfl
  divcnt_lt := id
  divcnt _ hlt := (Nat.mod_eq_of_lt hlt).symm
  tcnt_disabled _ := rfl
  tcnt_enabled _ hlt hwidth := by rw [Nat.add_zero, Nat.div_eq_of_lt hlt, Nat.add_zero, Nat.mod_eq_of_lt hwidth]

/-- The divider's advance at the edge after the run. -/
theorem QuietRun.advanceDivider {n : Nat} {s t : State} (h : QuietRun n s t) (hlt : s.divcnt < s.cfg.div) :
    t.advanceDivider.divcnt = if s.arm then (s.divcnt + n + 1) % s.cfg.div else 0 := by
  have harm' : t.arm = s.arm := State.arm_congr h.ctl
  cases harm : s.arm with
  | false => exact State.advanceDivider_unarmed (harm'.trans harm)
  | true =>
    rw [if_pos rfl, State.advanceDivider_mod (harm'.trans harm) (h.divcnt_lt hlt), h.divcnt harm hlt, h.cfg,
      Nat.mod_add_mod]

/-- Enabled, the edge after the run ticks exactly where the divider has counted to a multiple of `DIV`. -/
theorem QuietRun.tick_iff {n : Nat} {s t : State} (h : QuietRun n s t) (hen : s.ticksEnabled = true)
    (hlt : s.divcnt < s.cfg.div) : t.tick = true ↔ s.cfg.div ∣ s.divcnt + n + 1 := by
  have hdiv := Nat.zero_lt_of_lt hlt
  rw [State.tick_iff (h.cfg ▸ hdiv) ((State.ticksEnabled_congr h.ctl).trans hen), h.cfg,
    h.divcnt (State.arm_of_ticksEnabled hen) hlt]
  exact mod_succ_eq_iff_dvd hdiv _

/-- One more edge: an armed divider advances, and `TCNT` counts the tick if there is one. -/
theorem QuietRun.succ {n : Nat} {s t u : State} (h : QuietRun n s t) (hstep : step t = .next u)
    (hquiet : t.ports.quiet) : QuietRun (n + 1) s u := by
  obtain ⟨v, hstep', hcfg, hinputs⟩ := step_total (timingOk_of_step hstep)
  obtain rfl := Host.Outcome.next.inj (hstep'.symm.trans hstep)
  obtain ⟨hctl, hbidx, hout⟩ := step_quiet hstep hquiet
  obtain ⟨hrst, -, hpoll⟩ := hquiet
  obtain ⟨-, hdivcnt⟩ := step_frame hstep hrst
  have htcnt := step_tcnt_unpolled hstep hrst hpoll
  refine {
    run := core_run_snoc h.run hstep
    cfg := hcfg.trans h.cfg
    inputs := by rw [hinputs, h.inputs, List.tail_drop]
    ctl := hctl.trans h.ctl
    bidx := hbidx.trans h.bidx
    out := hout.trans h.out
    divcnt_lt := fun hlt => step_divcnt_lt hstep (h.divcnt_lt hlt)
    divcnt := fun harm hlt => by rw [hdivcnt, h.advanceDivider hlt, if_pos harm, Nat.add_assoc]
    tcnt_disabled := fun hdis => ?disabled
    tcnt_enabled := fun hen hlt hwidth => ?enabled }
  case disabled =>
    have hdis' : t.ticksEnabled = false := (State.ticksEnabled_congr h.ctl).trans hdis
    rw [htcnt, State.tick_of_not_ticksEnabled hdis', if_neg Bool.false_ne_true, h.tcnt_disabled hdis]
  case enabled =>
    rw [htcnt, h.tcnt_enabled hen hlt hwidth, h.cfg, ← Nat.add_assoc, Nat.succ_div]
    simp only [h.tick_iff hen hlt]
    split
    · rw [Nat.mod_add_mod, Nat.add_assoc]
    · rfl

theorem quietRun {n : Nat} {s : State} (htiming : s.cfg.timingOk = true) (hquiet : ∀ p ∈ s.inputs.take n, p.quiet) :
    ∃ t, QuietRun n s t := by
  induction n with
  | zero => exact ⟨s, .zero s⟩
  | succ n ih =>
    obtain ⟨t, ht⟩ := ih (forall_mem_take_of_succ hquiet)
    obtain ⟨u, hstep, -, -⟩ := step_total (ht.cfg ▸ htiming : t.cfg.timingOk = true)
    exact ⟨u, ht.succ hstep (State.ports_of_drop Ports.quiet_idle n.lt_succ_self ht.inputs hquiet)⟩

/-! ### The edge that sets the enables -/

/-- A run goes on from where a run before it ended. -/
theorem core_run_add {m k : Nat} {s t u : State} (hfirst : Sys2Proof.core.run m s = .next t)
    (hrest : Sys2Proof.core.run k t = .next u) : Sys2Proof.core.run (m + k) s = .next u := by
  induction m generalizing s with
  | zero =>
    obtain rfl : s = t := Host.Outcome.next.inj hfirst
    rwa [Nat.zero_add]
  | succ m ih =>
    obtain ⟨r, hstep, hrun⟩ := andThen_eq_next.mp ((core_run_succ m s).symm.trans hfirst)
    rw [Nat.succ_add, core_run_succ]
    exact andThen_eq_next.mpr ⟨r, hstep, ih hrun⟩

theorem State.ports_of_getElem? {s t : State} {n : Nat} {p : Ports} (hinputs : t.inputs = s.inputs.drop n)
    (hp : s.inputs[n]? = some p) : t.ports = p := by
  obtain ⟨rest, hcons⟩ := List.head?_eq_some_iff.mp (List.head?_drop.trans hp)
  rw [State.ports, hinputs, hcons]

/-- The tick of an edge is formed from `CTL` as before it (43_system.md R138): where the interrupt cannot be taken, the
edge of a configuration write does not tick, whatever it writes. -/
theorem step_config_masked {s t : State} {v : CtlWord} (h : step s = .next t) (hports : s.ports = Ports.config v)
    (hdis : s.ticksEnabled = false) : t.ctl = v ∧ t.divcnt = s.advanceDivider.divcnt ∧ t.tcnt = s.tcnt := by
  obtain ⟨hctl, hdivcnt⟩ := step_frame h (hports ▸ rfl)
  have htcnt := step_tcnt_unpolled h (hports ▸ rfl) (hports ▸ rfl)
  rw [State.tick_of_not_ticksEnabled hdis, if_neg Bool.false_ne_true] at htcnt
  exact ⟨hctl.trans (hports ▸ rfl), hdivcnt, htcnt⟩

/-- Settles O53: the masked edges are a run without strobes in which no edge ticks; the enabling edge leaves `TCNT` and
advances the divider to `d`, from where the enabled edges are another such run. -/
theorem maskedExpiriesAreLost : Obligations.MaskedExpiriesAreLost := by
  intro n s htiming hmasked hquiet
  have hdis := State.ticksEnabled_of_masked hmasked
  obtain ⟨t, ht⟩ := quietRun htiming hquiet
  refine ⟨⟨t, ht.run, ht.tcnt_disabled hdis, ht.ctl, ht.bidx, ht.out, ht.divcnt⟩, ?_⟩
  intro k v hlt hwidth harm htie hgie hconfig hquiet' d
  have hdis' : t.ticksEnabled = false := (State.ticksEnabled_congr ht.ctl).trans hdis
  obtain ⟨r, hstep, hcfg, hinputs⟩ := step_total (ht.cfg ▸ htiming : t.cfg.timingOk = true)
  obtain ⟨hctl, hdivcnt, htcnt⟩ := step_config_masked hstep (State.ports_of_getElem? ht.inputs hconfig) hdis'
  have hcfg' : r.cfg = s.cfg := hcfg.trans ht.cfg
  have hinputs' : r.inputs = s.inputs.drop (n + 1) := by rw [hinputs, ht.inputs, List.tail_drop]
  have hd : r.divcnt = d := hdivcnt.trans (ht.advanceDivider hlt)
  have htcnt' : r.tcnt = s.tcnt := htcnt.trans (ht.tcnt_disabled hdis)
  have hlt' : r.divcnt < r.cfg.div := step_divcnt_lt hstep (ht.divcnt_lt hlt)
  have hen : r.ticksEnabled = true := by
    refine r.ticksEnabled_iff.mpr ?_
    unfold State.arm State.tie State.gie
    exact hctl ▸ ⟨harm, htie, hgie⟩
  obtain ⟨u, hu⟩ := quietRun (hcfg' ▸ htiming) (hinputs' ▸ hquiet')
  refine ⟨u, core_run_add (core_run_snoc ht.run hstep) hu.run, hu.ctl.trans hctl, ?_, ?_⟩
  · rw [hu.divcnt (State.arm_of_ticksEnabled hen) hlt', hcfg', hd]
  · rw [hu.tcnt_enabled hen hlt' (by rwa [htcnt', hcfg']), hcfg', hd, htcnt']

end Sys2Proof.Machine

/-! PROOFS. Reset, hazards and the signal contract (70_reset_and_hazards.md).

The signal contract is read off two facts: the state of every slot of the cycle, and the level that `RENDER` puts on a
channel from such a state. From reset the engine counts through the identification byte alone, and before the host
configures it, it does not count at all. -/

namespace Sys2Proof.Machine

/-! ### The levels of the cycle's slots (R180) -/

section
variable {cfg : Config} {f o : Nat}

/-- The contract in the cycle's byte `f` of the four identifier bytes: a start level, a payload bit on every channel,
the idle level. -/
theorem contractLevel_identifier (hf : f < 4) (ho : o < cfg.byteTicks) (c : Nat) :
    contractLevel cfg (cfg.byteTicks * f + o) c =
      if o = 0 then false else if o ≤ 8 then (idByte cfg (3 - f)).getLsbD (o - 1) else true := by
  have hbyte : cfg.byteTicks * (f + 1) ≤ cfg.byteTicks * 4 := Nat.mul_le_mul_left _ hf
  rw [Nat.mul_succ] at hbyte
  have hframe : (cfg.byteTicks * f + o) / cfg.byteTicks = f := by
    rw [Nat.mul_add_div (Nat.zero_lt_of_lt ho), Nat.div_eq_of_lt ho, Nat.add_zero]
  have hoffset : (cfg.byteTicks * f + o) % cfg.byteTicks = o := by
    rw [Nat.mul_add_mod, Nat.mod_eq_of_lt ho]
  have hbefore : cfg.byteTicks * f + o < 5 * cfg.byteTicks := by omega
  simp only [contractLevel, hframe, hoffset]
  grind

/-- The contract in the identification byte and, from offset 9 on, in the pause after it: a start level, one row of the
table on each channel, the idle level. -/
theorem contractLevel_identification (hbyte : 10 ≤ cfg.byteTicks) (c : Nat) :
    contractLevel cfg (cfg.byteTicks * 4 + o) c =
      if o = 0 then false else if o ≤ 8 then pattern cfg c (o - 1) else true := by
  have hframe : (cfg.byteTicks * 4 + o) / cfg.byteTicks = 4 + o / cfg.byteTicks :=
    Nat.mul_add_div (by omega) 4 o
  have hoffset : (cfg.byteTicks * 4 + o) % cfg.byteTicks = o % cfg.byteTicks := Nat.mul_add_mod _ 4 o
  simp only [contractLevel, hframe, hoffset]
  rcases Nat.lt_or_ge o cfg.byteTicks with ho | ho
  · rw [Nat.div_eq_of_lt ho, Nat.mod_eq_of_lt ho]
    grind
  · have hpause : 0 < o / cfg.byteTicks := Nat.div_pos ho (by omega)
    grind

/-- The payloads of the identifier bytes, most significant first (R127). -/
theorem payloadOf_frame (hf : f < 4) (cfg : Config) : payloadOf cfg (nextPos^[f] .b4) = idByte cfg (3 - f) := by
  interval_cases f <;> rfl

end

/-- The level `RENDER` leaves on channel `c`. -/
theorem State.rendered_level (s : State) {c : Nat} (hc : c < 8) :
    s.rendered.out.getLsbD c =
      if s.tcnt = 0 then false
      else if s.tcnt ≤ 8 then
        (if identOf s.bidx then pattern s.cfg c (s.tcnt - 1) else s.data.getLsbD (s.tcnt - 1))
      else true :=
  render_level (render_eq s.bidx s.tcnt s) hc

/-- At the identification byte `RENDER` leaves the levels of the cycle's last byte, whatever `DATA` holds. -/
theorem State.rendered_level_identification {s : State} (htiming : s.cfg.timingOk = true) (hb : s.bidx = .b0)
    {c : Nat} (hc : c < 8) :
    s.rendered.out.getLsbD c = contractLevel s.cfg (s.cfg.byteTicks * 4 + s.tcnt) c := by
  rw [s.rendered_level hc, contractLevel_identification (byteTicks_ge_ten htiming), hb]
  rfl

/-- Each slot of the cycle ends with the levels the contract gives it. -/
theorem State.atSlot_level {s : State} (htiming : s.cfg.timingOk = true) {n : Nat} (hn : n < s.cfg.cycleTicks)
    {c : Nat} (hc : c < 8) : (s.atSlot n).out.getLsbD c = contractLevel s.cfg n c := by
  have hbyte := byteTicks_pos htiming
  obtain ⟨f, o, hf, ho, rfl⟩ | ⟨o, -, rfl⟩ := cycle_slot_cases hbyte hn
  · have hident : ¬ identOf (nextPos^[f] .b4) = true := mt (identOf_iff _).mp (nextPos_iterate_ne hf)
    rw [State.atSlot_frame hf.le ho, State.rendered_level _ hc, contractLevel_identifier hf ho]
    simp only [State.placeAt_tcnt, State.placeAt_bidx, State.placeAt_data, if_neg hident, payloadOf_frame hf]
  · rw [State.atSlot_identification hbyte]
    exact State.rendered_level_identification (s := s.placeAt .b0 o) htiming rfl hc

/-- With the startup contract met every pin of a channel shows the channel's bit of `OUT` (10_state.md R20). -/
theorem State.pin_of_contractMet {s : State} (h : s.contractMet) (c p : Fin 8) :
    s.pin c p = if s.out.getLsbD c then .high else .low := by
  have henabled (k : Fin 8) : (0x7FF#11).getLsbD k = true := by decide +revert
  exact State.pin_of_enabled (h ▸ henabled c) p

/-- Settles O57: the last poll of a tick slot leaves that slot of the cycle, whose levels are the contract's. -/
theorem physicalSignalContract : Obligations.PhysicalSignalContract := by
  intro s polls m htiming hcontract hstart hpolls
  refine ⟨_, runOps_throughSlot htiming hstart hpolls m, fun c p => ?_⟩
  rw [State.pin_of_contractMet (s := s.atSlot _) hcontract,
    State.atSlot_level htiming (Nat.mod_lt m (cycleTicks_pos htiming)) c.isLt]

/-! ### From reset to the first cycle start (R166) -/

/-- Below the threshold polls write `OUT` at most. -/
theorem runOps_polls_below {s : State} (h : s.tcnt < thresholdOf s.cfg s.bidx) (k : Nat) :
    ∃ out, runOps (List.replicate k .step) s = .next { s with out := out } := by
  rcases Nat.eq_zero_or_pos k with rfl | hk
  · exact ⟨s.out, rfl⟩
  · exact ⟨_, runOps_polls_hold h hk⟩

/-- Up to the threshold of its position the engine only counts the tick slots and renders, however it is polled. -/
theorem runOps_fullSlots_below {s : State} (polls : Nat → Nat) (htiming : s.cfg.timingOk = true) {n : Nat}
    (h : s.tcnt + n ≤ thresholdOf s.cfg s.bidx) :
    ∃ out, runOps (fullSlots polls n) s = .next { s with tcnt := s.tcnt + n, out := out } := by
  induction n with
  | zero => exact ⟨s.out, rfl⟩
  | succ n ih =>
    obtain ⟨out, hslots⟩ := ih (by omega)
    obtain ⟨out', hpolls⟩ := runOps_polls_below (s := { s with tcnt := s.tcnt + n, out := out })
      (show s.tcnt + n < thresholdOf s.cfg s.bidx by omega) (polls n)
    have hwidth := thresholdOf_lt_two_pow_width htiming s.bidx
    have htick : runOps [.tinc] { s with tcnt := s.tcnt + n, out := out' } =
        .next { s with tcnt := s.tcnt + n + 1, out := out' } :=
      runOps_ticks (n := 1) (s := { s with tcnt := s.tcnt + n, out := out' }) (by dsimp only; omega)
    refine ⟨out', ?_⟩
    rw [fullSlots, List.append_assoc, runOps_append_of_next hslots, runOps_append_of_next hpolls, htick, Nat.add_assoc]

/-- In the identification byte and the pause after it, the last poll of a slot renders that slot. -/
theorem runOps_throughSlot_identification {s : State} {polls : Nat → Nat} (htiming : s.cfg.timingOk = true)
    (hb : s.bidx = .b0) (ht : s.tcnt = 0) {m : Nat} (hm : m < s.cfg.restartTicks) (hpoll : 1 ≤ polls m) :
    runOps (throughSlot polls m) s = .next { s with tcnt := m }.rendered := by
  have hthreshold : m < thresholdOf s.cfg s.bidx := hb ▸ hm
  obtain ⟨out, hslots⟩ := runOps_fullSlots_below polls htiming (n := m) (by omega)
  rw [ht, Nat.zero_add] at hslots
  rw [throughSlot, runOps_append_of_next hslots]
  exact runOps_polls_hold (s := { s with tcnt := m, out := out }) hthreshold hpoll

/-- Two polls after the pause the engine is at a cycle start. -/
theorem runOps_firstCycleStart {s : State} (polls : Nat → Nat) (htiming : s.cfg.timingOk = true) (hb : s.bidx = .b0)
    (ht : s.tcnt = 0) : runOps (fullSlots polls s.cfg.restartTicks ++ [.step, .step]) s = .next s.cycleStart := by
  have hthreshold : thresholdOf s.cfg s.bidx = s.cfg.restartTicks := by rw [hb]; rfl
  obtain ⟨out, hslots⟩ := runOps_fullSlots_below polls htiming (n := s.cfg.restartTicks) (by omega)
  rw [ht, Nat.zero_add] at hslots
  rw [runOps_append_of_next hslots]
  exact runOps_restart (s := { s with tcnt := s.cfg.restartTicks, out := out }) htiming hb le_rfl []

theorem State.cycleStart_of_tcnt_zero {s : State} (ht : s.tcnt = 0) :
    s.cycleStart = { s with bidx := .b4, data := idByte s.cfg 3, out := 0xFF } := by
  simp only [State.cycleStart, State.placeAt, payloadOf, ht]

/-- Settles O43: from reset every slot is one of the identification byte and its pause, and the first cycle start
follows; from there the cycle's own return (R128). -/
theorem cycleReturnsToItsStart : Obligations.CycleReturnsToItsStart := by
  refine ⟨fun s polls htiming hcontract hb ht => ⟨fun m hm hpoll => ?_, ?_⟩, ?_⟩
  · refine ⟨_, runOps_throughSlot_identification htiming hb ht hm hpoll, hb, rfl, fun c p => ?_⟩
    rw [State.pin_of_contractMet (s := State.rendered { s with tcnt := m }) hcontract,
      State.rendered_level_identification (s := { s with tcnt := m }) htiming hb c.isLt, Nat.mul_comm]
  · exact ⟨_, runOps_firstCycleStart polls htiming hb ht, ⟨rfl, rfl, rfl, rfl⟩, State.cycleStart_of_tcnt_zero ht⟩
  · intro s polls htiming _ hstart hpolls
    exact runOps_fullCycle htiming hstart hpolls

/-- Settles O55: the three polls are `RESTART`, `ADV4` and a `STEP` that only renders; offset 0 is the start bit. -/
theorem thirdPollRendersTheStartBit : Obligations.ThirdPollRendersTheStartBit := by
  intro s htiming hb ht
  have hthreshold : s.cfg.restartTicks ≤ s.tcnt := ht.ge
  have hbyte : s.cfg.byteTicks ≤ s.tcnt := Nat.le_trans (Nat.le_add_right _ _) hthreshold
  refine ⟨?_, runOps_restart htiming hb hthreshold [], ?_⟩
  · have hrestart := execStep_restart hb hthreshold
    rwa [State.rendered_at_threshold htiming hbyte] at hrestart
  · rw [runOps_restart htiming hb hthreshold]
    exact runOps_polls_hold (s := s.cycleStart) (thresholdOf_pos htiming .b4) (k := 1) le_rfl

/-! ### A counter too narrow for the pause (R173) -/

/-- A poll or a tick of a counter that cannot reach `RESTART_TICKS` leaves the identification byte going. -/
theorem exec_narrow {i : Instr} {s : State} (hi : i = .step ∨ i = .tinc)
    (hnarrow : 2 ^ s.cfg.width ≤ s.cfg.restartTicks) (hb : s.bidx = .b0) (ht : s.tcnt < 2 ^ s.cfg.width) :
    ∃ t, exec i s = .next t ∧ t.cfg = s.cfg ∧ t.bidx = .b0 ∧ t.data = s.data ∧ t.tcnt < 2 ^ s.cfg.width := by
  obtain rfl | rfl := hi
  · have hexp : s.exp = false := s.exp_eq_false_iff.mpr (hb ▸ ht.trans_le hnarrow)
    exact ⟨s.rendered, execStep_of_not_exp hexp, rfl, hb, rfl, ht⟩
  · exact ⟨s.takeTick, rfl, rfl, hb, rfl, Nat.mod_lt _ (Nat.two_pow_pos s.cfg.width)⟩

/-- Settles O56, by induction on the events. -/
theorem narrowCounterNeverRestarts : Obligations.NarrowCounterNeverRestarts := by
  intro events
  induction events with
  | nil => exact fun s _ _ hb _ => ⟨s, rfl, hb, rfl⟩
  | cons i rest ih =>
    intro s hevents hnarrow hb ht
    obtain ⟨hi, hrest⟩ := List.forall_mem_cons.mp hevents
    obtain ⟨t, hexec, hcfg, hb', hdata, ht'⟩ := exec_narrow hi hnarrow hb ht
    obtain ⟨u, hrun, hbu, hdatau⟩ := ih t hrest (hcfg ▸ hnarrow) hb' (hcfg ▸ ht')
    exact ⟨u, (runOps_cons_of_next hexec rest).trans hrun, hbu, hdatau.trans hdata⟩

/-! ### Before the host's first configuration write (R166, R169) -/

/-- What `RESET` leaves of the registers that polls, ticks and the divider may write, `DATA` and `OUT` apart. -/
structure State.Unconfigured (s : State) : Prop where
  ctl : s.ctl = 0
  tcnt : s.tcnt = 0
  bidx : s.bidx = .b0
  divcnt : s.divcnt = 0

theorem State.Unconfigured.resetRegisters (s : State) : s.resetRegisters.Unconfigured := ⟨rfl, rfl, rfl, rfl⟩

theorem State.Unconfigured.exp {s : State} (h : s.Unconfigured) (htiming : s.cfg.timingOk = true) : s.exp = false :=
  s.exp_eq_false_iff.mpr (h.tcnt ▸ thresholdOf_pos htiming s.bidx)

theorem State.Unconfigured.arm {s : State} (h : s.Unconfigured) : s.arm = false := by
  rw [State.arm, h.ctl]
  rfl

theorem State.Unconfigured.tick {s : State} (h : s.Unconfigured) : s.tick = false := by
  simp only [State.tick, State.expire, h.arm, Bool.false_and]

/-- A poll renders the start level and leaves the rest. -/
theorem State.Unconfigured.execStep {s : State} (h : s.Unconfigured) (htiming : s.cfg.timingOk = true) :
    execStep s = .next { s with out := 0x00 } := by
  rw [execStep_of_not_exp (h.exp htiming), State.rendered, h.tcnt]
  rfl

/-- An edge that does not write `CTL` is `RESET`, or has at most a poll; an unarmed divider stays 0. -/
theorem State.Unconfigured.clkEdge {p : Ports} {s t : State} (h : s.Unconfigured) (htiming : s.cfg.timingOk = true)
    (hwe : p.cfgWe = false) (hedge : clkEdge p s = .next t) : t.Unconfigured := by
  cases hrst : p.rst with
  | true =>
    obtain rfl := Host.Outcome.next.inj ((clkEdge_reset hrst s).symm.trans hedge)
    exact .resetRegisters s
  | false =>
    obtain ⟨s₁, hpoll, hrun⟩ := clkEdge_run hrst s
    have h₁ : s₁.Unconfigured := by
      split at hpoll
      · obtain rfl := Host.Outcome.next.inj ((h.execStep htiming).symm.trans hpoll)
        exact ⟨h.ctl, h.tcnt, h.bidx, h.divcnt⟩
      · exact Host.Outcome.next.inj hpoll ▸ h
    rw [h.tick, hwe] at hrun
    obtain rfl : s₁.advanceDivider = t := Host.Outcome.next.inj (hrun.symm.trans hedge)
    exact ⟨h₁.ctl, h₁.tcnt, h₁.bidx, State.advanceDivider_unarmed h₁.arm⟩

/-- Nor does any number of such edges configure the engine. -/
theorem State.Unconfigured.core_run {n : Nat} {s : State} (h : s.Unconfigured) (htiming : s.cfg.timingOk = true)
    (hwe : ∀ p ∈ s.inputs.take n, p.cfgWe = false) :
    ∃ t : State, Sys2Proof.core.run n s = .next t ∧ t.cfg = s.cfg ∧ t.inputs = s.inputs.drop n ∧ t.Unconfigured := by
  induction n with
  | zero => exact ⟨s, rfl, rfl, rfl, h⟩
  | succ n ih =>
    obtain ⟨t, hrun, hcfg, hinputs, ht⟩ := ih (forall_mem_take_of_succ hwe)
    have htiming' : t.cfg.timingOk = true := hcfg ▸ htiming
    obtain ⟨u, hstep, hcfg', hinputs'⟩ := step_total htiming'
    have hwe' : t.ports.cfgWe = false := State.ports_of_drop (Q := (·.cfgWe = false)) rfl n.lt_succ_self hinputs hwe
    have hnext : t.nextPorts.Unconfigured := ⟨ht.ctl, ht.tcnt, ht.bidx, ht.divcnt⟩
    exact ⟨u, core_run_snoc hrun hstep, hcfg'.trans hcfg, by rw [hinputs', hinputs, List.tail_drop],
      hnext.clkEdge htiming' hwe' (clkEdge_of_step hstep)⟩

theorem State.Unconfigured.stepWord {s : State} (h : s.Unconfigured) (htiming : s.cfg.timingOk = true) :
    s.stepWord = 0x00 := by
  rw [State.stepWord, h.exp htiming, State.slot, h.tcnt, h.bidx]
  rfl

theorem State.Unconfigured.pin {s : State} (h : s.Unconfigured) (c p : Fin 8) : s.pin c p = .z := by
  refine State.pin_of_disabled ?_ p
  rw [h.ctl]
  exact BitVec.getLsbD_zero

/-- Settles O54: edges without a write keep the unconfigured state, in which nothing is driven or counted. -/
theorem beforeConfigurationNothingMoves : Obligations.BeforeConfigurationNothingMoves := by
  intro n s htiming hctl htcnt hbidx hdivcnt hwe
  have hs : s.Unconfigured := ⟨hctl, htcnt, hbidx, hdivcnt⟩
  obtain ⟨t, hrun, hcfg, -, ht⟩ := hs.core_run htiming hwe
  have htiming' : t.cfg.timingOk = true := hcfg ▸ htiming
  exact ⟨t, hrun, ht.tcnt, ht.bidx, ht.ctl, ht.divcnt, ht.stepWord htiming', ⟨_, ht.execStep htiming', rfl⟩, ht.pin⟩

end Sys2Proof.Machine
